-- ==== Sys2Proof/Word.lean ====
section
/-! DEFINITION. The word types of the block (00_scope.md rule R7): the 64-bit stack word and operand, the 72-bit instruction
word, and the 8-bit byte in which an image file stores one character (30_encoding.md rule R100). -/

namespace Sys2Proof

/-- A stack word, an operand, a program index or an exit code: WORD = PC_WIDTH = LEN_WIDTH = 64 bits (R7). -/
abbrev Word := BitVec 64

/-- An instruction word: INSN_WIDTH = 72 bits, the opcode in bits 71 to 64 and the operand in bits 63 to 0 (R90). -/
abbrev InsnWord := BitVec 72

/-- One stored character of an image file (R100). -/
abbrev Byte := BitVec 8

end Sys2Proof
end

