-- ==== Sys2Proof/Syntax.lean ====
section
/-! DEFINITION. The decoded instruction (30_encoding.md rules R91, R92): one constructor per row of the opcode table. Four
kinds carry a 64-bit operand; the other ten hold no operand field at all (R92). -/

namespace Sys2Proof

/-- A decoded instruction, one of 14 kinds (R92). Equality is structural. -/
inductive Instr where
  /-- Code 0: push the immediate n (R140). -/
  | push (n : Word)
  /-- Code 1 (R160). -/
  | add
  /-- Code 2 (R161). -/
  | sub
  /-- Code 3 (R162). -/
  | mul
  /-- Code 4 (R163). -/
  | div
  /-- Code 5: push a copy of the element at depth k (R145). -/
  | dup (k : Word)
  /-- Code 6 (R180). -/
  | dump
  /-- Code 7 (R185). -/
  | print
  /-- Code 8: jump to the program index n (R195). -/
  | jmp (n : Word)
  /-- Code 9 (R220). -/
  | eq
  /-- Code 10: jump to the program index n, and pop, when the top equals 1 (R200). -/
  | jnz (n : Word)
  /-- Code 11 (R205). -/
  | halt
  /-- Code 12 (R210). -/
  | blind
  /-- Code 13 (R225). -/
  | neq
deriving DecidableEq, Repr

end Sys2Proof
end

