-- ==== Sys2Proof/Decode.lean ====
section
/-! DEFINITION. The instruction decoder and the encoder (30_encoding.md rules R90 to R99). -/

namespace Sys2Proof

/-- The opcode field W[71:64] (R90). -/
def opcodeField (w : InsnWord) : BitVec 8 := w.extractLsb' 64 8

/-- The operand field W[63:0], an unsigned value, neither scaled nor sign-extended (R90, R93). -/
def operandField (w : InsnWord) : Word := w.extractLsb' 0 64

/-- What Decode answers: an instruction, or the failure ILLEGAL_OPCODE(c) (R95). -/
inductive Decoded where
  | instr (i : Instr)
  | illegalOpcode (c : BitVec 8)
deriving DecidableEq, Repr

/-- Decode, total on all 72-bit words (R95). The ten no-operand opcodes ignore the operand field (R94). -/
def decode (w : InsnWord) : Decoded :=
  match (opcodeField w).toNat with
  | 0 => .instr (.push (operandField w))
  | 1 => .instr .add
  | 2 => .instr .sub
  | 3 => .instr .mul
  | 4 => .instr .div
  | 5 => .instr (.dup (operandField w))
  | 6 => .instr .dump
  | 7 => .instr .print
  | 8 => .instr (.jmp (operandField w))
  | 9 => .instr .eq
  | 10 => .instr (.jnz (operandField w))
  | 11 => .instr .halt
  | 12 => .instr .blind
  | 13 => .instr .neq
  | _ => .illegalOpcode (opcodeField w)

/-- The decoding of a batch of words, in order; none when any of them is illegal (10_state.md rule R42). -/
def decodeAll : List InsnWord → Option (List Instr)
  | [] => some []
  | w :: ws =>
    match decode w, decodeAll ws with
    | .instr i, some is => some (i :: is)
    | _, _ => none

/-- The numeric code of an instruction's kind (R91). -/
def opcodeOf : Instr → BitVec 8
  | .push _ => 0#8
  | .add => 1#8
  | .sub => 2#8
  | .mul => 3#8
  | .div => 4#8
  | .dup _ => 5#8
  | .dump => 6#8
  | .print => 7#8
  | .jmp _ => 8#8
  | .eq => 9#8
  | .jnz _ => 10#8
  | .halt => 11#8
  | .blind => 12#8
  | .neq => 13#8

/-- The operand that Encode writes: the instruction's own for the four operand kinds, else 0 (R99). -/
def operandOf : Instr → Word
  | .push n => n
  | .dup k => k
  | .jmp n => n
  | .jnz n => n
  | .add => 0#64
  | .sub => 0#64
  | .mul => 0#64
  | .div => 0#64
  | .dump => 0#64
  | .print => 0#64
  | .eq => 0#64
  | .halt => 0#64
  | .blind => 0#64
  | .neq => 0#64

/-- Encode: the word `opc ++ operand` (R90, R99). -/
def encode (i : Instr) : InsnWord := opcodeOf i ++ operandOf i

/-- The instruction the decoder reads from the opcode table's bits `w`, of which the table gives `nbits`: the one 72-bit word
whose bit 0 is the least significant, its bits at and above `nbits` being 0. None where the decoder rejects it. -/
def decodeTableWord (nbits w : Nat) : Option Instr :=
  match decode (BitVec.ofNat 72 (w % 2 ^ nbits)) with
  | .instr i => some i
  | .illegalOpcode _ => none

end Sys2Proof
end

