-- ==== Sys2Proof/Config.lean ====
section
/-! DEFINITION. What is fixed for a machine (00_scope.md rule R7) and the values the spec leaves open. PROG_DEPTH is not here:
the spec makes it a parameter that the model takes as an argument (92_eei_decisions.md D12, log entry 6), so the load actions
of Machine/Loader.lean take it. -/

namespace Sys2Proof.Config

/-- STACK_DEPTH: the operand stack has 2048 slots (R7, R22). -/
def stackDepth : Nat := 2048

/-- EXIT_LOAD: the exit code of a load or assembly failure (R7, R32). -/
def exitLoad : Word := 101#64

/-- EXIT_RUNTIME: the exit code of a runtime error (R7, R32). -/
def exitRuntime : Word := 202#64

/-- EXIT_END: the exit code of a normal end (R7, R240). -/
def exitEnd : Word := 0#64

/-- HOST_EXIT_MAP: how the host narrows a 64-bit HALT code to a process exit status. The spec leaves it OPEN (R245,
92_eei_decisions.md D11, 93_implementation_defined.md X5), so nothing can evaluate it. Log entry 12. -/
opaque hostExitMap : Word → Nat

/-- Whether a character outside ASCII separates the tokens of an assembly line. R107 says "whitespace" and lists no
character; this part of the question stays open. Log entry 13. -/
opaque nonAsciiBlank : Char → Bool

end Sys2Proof.Config
end

