-- ==== Sys2Proof/Machine/State.lean ====
section
/-! DEFINITION. The architectural state of the block (10_state.md rules R20 to R35), its values right after reset (R34), and
the reasons a step can stop. -/

namespace Sys2Proof.Machine

/-- The storage of the operand stack: (slot, word) pairs in one canonical form, slots strictly rising and no listed word equal
to 0. A slot that is not listed holds 0, its reset value (R22, R34). -/
abbrev Memory := List (Nat × Word)

/-- STATUS (R30). `Status.code` of Machine/StatusPort.lean gives the 3-bit code; the reserved codes 6 and 7 are never produced. -/
inductive Status where
  /-- After reset, no run begun. -/
  | idle
  /-- The core is executing instructions. -/
  | running
  /-- Normal end: a run reached pc = len. -/
  | ended
  /-- A HALT retired. -/
  | halted
  /-- A runtime error ended the run. -/
  | faulted
  /-- A load was rejected. -/
  | loadFaulted
deriving DecidableEq, Repr

/-- CAUSE (R31). `Cause.code` of Machine/StatusPort.lean gives the 4-bit code; the reserved codes are never produced. -/
inductive Cause where
  | none
  | stackOverflow
  | stackUnderflow
  | divideByZero
  | illegalMemoryAccess
  | illegalOpcode
  | malformedImage
  | programFull
deriving DecidableEq, Repr

/-- The runtime errors an instruction can raise (00_scope.md rule R11, 60_exceptions.md rule R231). -/
inductive RuntimeError where
  | stackOverflow
  | stackUnderflow
  | divideByZero
  /-- The target is the raiser's argument (R11); no register records it (R231). -/
  | illegalMemoryAccess (target : Word)
deriving DecidableEq, Repr

/-- An output event (R35). -/
inductive OutEvent where
  /-- Print(v), from PRINT (R185). -/
  | print (v : Word)
  /-- Dump(vs), from DUMP: the live elements, bottom first (R180). -/
  | dump (vs : List Word)
deriving DecidableEq, Repr

/-- The whole state (R20). -/
structure State where
  /-- S: the 2048 slots of the operand stack (R22), stale slots included (R25). -/
  stack : Memory
  /-- sp: the number of live elements, 12 bits, 0 to 2048 (R24). -/
  sp : BitVec 12
  /-- pc: an index into the program, 64 bits (R26). -/
  pc : Word
  /-- Prog: entry i of the list is Prog[i]; beyond the list there is no entry (20_memory.md rule R61, log entry 7). -/
  prog : List Instr
  /-- len: the number of instructions loaded, 64 bits (R28). -/
  len : Word
  /-- STATUS (R30). -/
  status : Status
  /-- CAUSE (R31). -/
  cause : Cause
  /-- EXIT_CODE, 64 bits (R32). -/
  exitCode : Word
  /-- out: the output events emitted since reset, oldest first (R35). -/
  out : List OutEvent
  /-- The event the output port offers and the host has not accepted, if any (R45, R50). The model's own field, log entry 4. -/
  offered : Option OutEvent
deriving DecidableEq, Repr

/-- The reset values of R34, every piece of state at once (R41, 70_reset_and_hazards.md rule R270). -/
def State.reset : State where
  stack := []
  sp := 0#12
  pc := 0#64
  prog := []
  len := 0#64
  status := .idle
  cause := .none
  exitCode := 0#64
  out := []
  offered := none

/-- Why a step stops. Both say that the state is one the spec says the machine never reaches; both are safe. -/
inductive Fault where
  /-- Raised by `coreStep` for a fetch at an index where no instruction is loaded. R51 says no such fetch happens. Safe. -/
  | fetchOutsideProgram
  /-- Raised by `coreStep` when sp is above 2048, so that the top of the stack is a slot that does not exist. R24 says no
  operation carries sp there. Safe. -/
  | sizeCursorOutOfRange
deriving DecidableEq, Repr

/-- Why a step has no meaning. -/
inductive Refusal where
  /-- Raised by `exec` for an instruction without a meaning. No instruction of this model is left so. Safe. -/
  | notModelled (mnemonic : String)
deriving DecidableEq, Repr

/-- The outcome of a meaning and of a step. -/
abbrev Outcome := Host.Outcome State Fault Refusal

end Sys2Proof.Machine
end

