-- ==== Sys2Proof/Machine/Ops.lean ====
section
/-! DEFINITION. The named operations over the stack's storage and the registers: the slots, the checked stack primitives
(20_memory.md rules R70 to R73), the router and the jump unit (43_control.md rules R190, R191), taking an error and terminating
(60_exceptions.md rules R236, R240), the output port (10_state.md rule R45), and fetch (R51). Primitives check before they
write (00_scope.md rule R12), and a raised error carries no new state. -/

namespace Sys2Proof.Machine

/-! ### The stack's storage -/

/-- The word in slot `i`. A slot that is not listed holds its reset value 0 (R34). -/
def Memory.read : Memory → Nat → Word
  | [], _ => 0#64
  | (k, v) :: rest, i => if k = i then v else Memory.read rest i

/-- Lists `v` at slot `i`, in the place the rising order gives it. -/
def Memory.insert : Memory → Nat → Word → Memory
  | [], i, v => [(i, v)]
  | (k, u) :: rest, i, v =>
    if i < k then (i, v) :: (k, u) :: rest
    else if i = k then (i, v) :: rest
    else (k, u) :: Memory.insert rest i v

/-- Takes slot `i` off the list. -/
def Memory.erase (m : Memory) (i : Nat) : Memory := m.filter fun cell => cell.1 != i

/-- Writes `v` to slot `i`. Writing 0, which an unlisted slot reads as, takes the slot off the list. -/
def Memory.write (m : Memory) (i : Nat) (v : Word) : Memory := if v = 0#64 then m.erase i else m.insert i v

/-- The canonical form, from slot `low` on: slots strictly rising, each below STACK_DEPTH, no listed word 0. -/
def Memory.wfFrom : Nat → Memory → Bool
  | _, [] => true
  | low, (k, v) :: rest => decide (low ≤ k) && decide (k < Config.stackDepth) && v != 0#64 && Memory.wfFrom (k + 1) rest

/-- The canonical form of the stack's storage. -/
def Memory.wf (m : Memory) : Bool := Memory.wfFrom 0 m

/-- `S[i]` (00_scope.md rule R11). -/
def State.slot (s : State) (i : Nat) : Word := Memory.read s.stack i

/-- `S[i] <- v` (R11). -/
def State.setSlot (s : State) (i : Nat) (v : Word) : State := { s with stack := Memory.write s.stack i v }

/-- The live elements `S[0]` to `S[sp-1]`, bottom first (R24, R46). -/
def State.live (s : State) : List Word := (List.range s.sp.toNat).map s.slot

/-! ### The stack primitives -/

/-- Push(v) (R70). -/
def State.push (v : Word) (s : State) : Except RuntimeError State :=
  if s.sp.toNat = Config.stackDepth then .error .stackOverflow
  else .ok { s.setSlot s.sp.toNat v with sp := s.sp + 1#12 }

/-- Pop(): the element taken, and the state without it; the slot keeps its value (R71, R25). -/
def State.pop (s : State) : Except RuntimeError (Word × State) :=
  if s.sp = 0#12 then .error .stackUnderflow
  else .ok (s.slot (s.sp - 1#12).toNat, { s with sp := s.sp - 1#12 })

/-- Peek(k): the element at depth k. The depth is compared with sp before anything is subtracted (R72). -/
def State.peek (k : Word) (s : State) : Except RuntimeError Word :=
  if s.sp.setWidth 64 ≤ k then .error .stackUnderflow
  else .ok (s.slot (s.sp.toNat - 1 - k.toNat))

/-- ReplaceTop2(v), for a state with sp at least 2: the result takes the lower operand's slot (R73). -/
def State.replaceTop2 (v : Word) (s : State) : State :=
  { s.setSlot (s.sp.toNat - 2) v with sp := s.sp - 1#12 }

/-! ### The control-flow router -/

/-- The router's sequential successor, pc + 1 (R190). -/
def State.advance (s : State) : State := { s with pc := s.pc + 1#64 }

/-- The jump unit's check: the target is below len, both compared as 64-bit unsigned values (R191). -/
def State.checkTarget (n : Word) (s : State) : Except RuntimeError Unit :=
  if n < s.len then .ok () else .error (.illegalMemoryAccess n)

/-- The router's jump to a checked target (R190). -/
def State.jump (n : Word) (s : State) : State := { s with pc := n }

/-! ### Errors and termination -/

/-- The CAUSE of a runtime error (R231). -/
def RuntimeError.cause : RuntimeError → Cause
  | .stackOverflow => .stackOverflow
  | .stackUnderflow => .stackUnderflow
  | .divideByZero => .divideByZero
  | .illegalMemoryAccess _ => .illegalMemoryAccess

/-- Taking a runtime error, the machine's one exception: STATUS, CAUSE and EXIT_CODE are written, all else is kept (R236).
Nothing is saved, no vector is taken and there is no return (R241, R242); only reset leaves FAULTED (R41). -/
def State.takeError (e : RuntimeError) (s : State) : State :=
  { s with status := .faulted, cause := e.cause, exitCode := Config.exitRuntime }

/-- Terminate(kind, code): CAUSE is left as it is (R240). -/
def State.terminate (kind : Status) (code : Word) (s : State) : State := { s with status := kind, exitCode := code }

/-- How an instruction at state `s` ends: it retires with the state its rule gives, or it takes the error raised, with none of
its writes performed (R12, R50, R236). -/
def conclude (s : State) : Except RuntimeError State → Outcome
  | .ok t => .next t
  | .error e => .next (s.takeError e)

/-! ### The output port -/

/-- Emit(e): appends the event to `out` and offers it to the host (R35, R45). -/
def State.emit (e : OutEvent) (s : State) : State := { s with out := s.out ++ [e], offered := some e }

/-- The host accepts the event the output port offers (R45, R47). -/
def State.acceptOutput (s : State) : State := { s with offered := none }

/-! ### Fetch -/

/-- Prog[pc], read only when pc is below len (R51). -/
def State.fetch (s : State) : Option Instr := if s.pc < s.len then s.prog[s.pc.toNat]? else none

/-- Stores the instruction `i` where the next step fetches, and starts the run: Prog[pc] is `i`, pc is below len and STATUS is
RUNNING. Program entries missing below pc, which no loaded program lacks, are filled with BLIND (log entry 1). -/
def State.placeAtPc (i : Instr) (s : State) : State :=
  { s with
    prog := s.prog.take s.pc.toNat ++ List.replicate (s.pc.toNat - s.prog.length) .blind ++ i :: s.prog.drop (s.pc.toNat + 1)
    len := if s.pc < s.len then s.len else s.pc + 1#64
    status := .running }

end Sys2Proof.Machine
end

