-- ==== Sys2Proof/Machine/Operands.lean ====
section
/-! DEFINITION. The operand forms. An instruction's operands are its immediate, which the constructors of `Instr` carry
(30_encoding.md rule R93), the top element, the top two elements, or the element at a depth (20_memory.md rules R71 to R73;
41_arith.md's conventions). No instruction names a register or an address (10_state.md rule R21). -/

namespace Sys2Proof.Machine

/-- The exact integer `x` reduced modulo 2^64 (00_scope.md rule R11, 41_arith.md rule R166). -/
def wrap64 (x : Int) : Word := BitVec.ofInt 64 x

/-- The top element, checked: a peek at depth 0 (R72). -/
def State.top (s : State) : Except RuntimeError Word := s.peek 0#64

/-- The operands (a, b) of a binary operation: b the top and a the element below it, after the depth check sp ≥ 2
(41_arith.md rule R168, 44_compare.md). -/
def State.topTwo (s : State) : Except RuntimeError (Word × Word) :=
  if s.sp.toNat < 2 then .error .stackUnderflow
  else .ok (s.slot (s.sp.toNat - 2), s.slot (s.sp.toNat - 1))

/-- A binary operation: the depth check, the operation's own check and result, ReplaceTop2, the sequential pc (R160 to R163,
R220, R225). -/
def binary (f : Word → Word → Except RuntimeError Word) (s : State) : Outcome :=
  conclude s do
    let (a, b) ← s.topTwo
    let r ← f a b
    return (s.replaceTop2 r).advance

end Sys2Proof.Machine
end

