-- ==== Sys2Proof/Machine/Flags.lean ====
section
/-! DEFINITION. The block has no flags, condition codes or predicate registers (10_state.md rule R29). A condition is a stack
word: the comparisons write 0 or 1 (44_compare.md), and JNZ tests the top element (43_control.md rule R200). -/

namespace Sys2Proof.Machine

/-- bool01(c): 1 when c holds, else 0, a 64-bit value (00_scope.md rule R11). -/
def bool01 (c : Bool) : Word := if c then 1#64 else 0#64

/-- JNZ's condition: the top equals 1, exactly (R200). -/
def jumpCondition (t : Word) : Bool := t == 1#64

end Sys2Proof.Machine
end

