-- ==== Sys2Proof/Machine/Arith.lean ====
section
/-! DEFINITION. The arithmetic instructions ADD, SUB, MUL and DIV (41_arith.md). Operands and results are unsigned (R165). -/

namespace Sys2Proof.Machine

/-- wrap64(a + b) (R160). -/
def aluAdd (a b : Word) : Word := wrap64 (a.toNat + b.toNat)

/-- wrap64(a - b) (R161). -/
def aluSub (a b : Word) : Word := wrap64 (a.toNat - b.toNat)

/-- wrap64(a * b): the low 64 bits of the product (R162). -/
def aluMul (a b : Word) : Word := wrap64 (a.toNat * b.toNat)

/-- a div b, unsigned and truncating; DivideByZero when either operand is 0 (R163, R167). -/
def aluDiv (a b : Word) : Except RuntimeError Word :=
  if a = 0#64 ∨ b = 0#64 then .error .divideByZero else .ok (BitVec.ofNat 64 (a.toNat / b.toNat))

/-- ADD (R160). -/
def execAdd (s : State) : Outcome := binary (fun a b => .ok (aluAdd a b)) s

/-- SUB (R161): the element below the top, minus the top. -/
def execSub (s : State) : Outcome := binary (fun a b => .ok (aluSub a b)) s

/-- MUL (R162). -/
def execMul (s : State) : Outcome := binary (fun a b => .ok (aluMul a b)) s

/-- DIV (R163): the element below the top, divided by the top. -/
def execDiv (s : State) : Outcome := binary aluDiv s

end Sys2Proof.Machine
end

