-- ==== Sys2Proof/Machine/Compare.lean ====
section
/-! DEFINITION. The comparison instructions EQ and NEQ (44_compare.md). -/

namespace Sys2Proof.Machine

/-- EQ (R220): all 64 bits are compared. -/
def execEq (s : State) : Outcome := binary (fun a b => .ok (bool01 (a == b))) s

/-- NEQ (R225). -/
def execNeq (s : State) : Outcome := binary (fun a b => .ok (bool01 (a != b))) s

end Sys2Proof.Machine
end

