-- ==== Sys2Proof/Machine/Control.lean ====
section
/-! DEFINITION. The control-flow instructions JMP, JNZ, HALT and BLIND (43_control.md). -/

namespace Sys2Proof.Machine

/-- JMP n (R195). -/
def execJmp (n : Word) (s : State) : Outcome :=
  conclude s do
    s.checkTarget n
    return s.jump n

/-- JNZ n (R200): the target is checked first, taken or not; the top is popped only when the jump is taken. -/
def execJnz (n : Word) (s : State) : Outcome :=
  conclude s do
    s.checkTarget n
    let t ← s.top
    if jumpCondition t then
      let (_, u) ← s.pop
      return u.jump n
    else
      return s.advance

/-- HALT (R205): pops the exit code and ends the run; pc keeps the HALT's index. -/
def execHalt (s : State) : Outcome :=
  conclude s do
    let (code, t) ← s.pop
    return t.terminate .halted code

/-- BLIND (R210). -/
def execBlind (s : State) : Outcome := .next s.advance

end Sys2Proof.Machine
end

