-- ==== Sys2Proof/Machine/Output.lean ====
section
/-! DEFINITION. The output instructions DUMP and PRINT (42_output.md). -/

namespace Sys2Proof.Machine

/-- DUMP (R180): emits the live elements, bottom first, the empty list when sp = 0. It makes no check. -/
def execDump (s : State) : Outcome := .next (s.emit (.dump s.live)).advance

/-- PRINT (R185): emits the top element. -/
def execPrint (s : State) : Outcome :=
  conclude s do
    let v ← s.top
    return (s.emit (.print v)).advance

end Sys2Proof.Machine
end

