-- ==== Sys2Proof/Machine/Stack.lean ====
section
/-! DEFINITION. The stack instructions PUSH and DUP (40_stack.md). -/

namespace Sys2Proof.Machine

/-- PUSH n (R140). -/
def execPush (n : Word) (s : State) : Outcome :=
  conclude s do
    let t ← s.push n
    return t.advance

/-- DUP k (R145): the depth check of the peek comes before the capacity check of the push (R238). -/
def execDup (k : Word) (s : State) : Outcome :=
  conclude s do
    let v ← s.peek k
    let t ← s.push v
    return t.advance

end Sys2Proof.Machine
end

