-- ==== Sys2Proof/Machine/Dispatch.lean ====
section
/-! DEFINITION. Dispatch: each of the 14 opcodes selects exactly one semantic rule (10_state.md rule R52). -/

namespace Sys2Proof.Machine

def exec (i : Instr) (s : State) : Host.Outcome State Fault Refusal :=
  match i with
  | .push n => Sys2Proof.Machine.execPush n s
  | .add => Sys2Proof.Machine.execAdd s
  | .sub => Sys2Proof.Machine.execSub s
  | .mul => Sys2Proof.Machine.execMul s
  | .div => Sys2Proof.Machine.execDiv s
  | .dup k => Sys2Proof.Machine.execDup k s
  | .dump => Sys2Proof.Machine.execDump s
  | .print => Sys2Proof.Machine.execPrint s
  | .jmp n => Sys2Proof.Machine.execJmp n s
  | .eq => Sys2Proof.Machine.execEq s
  | .jnz n => Sys2Proof.Machine.execJnz n s
  | .halt => Sys2Proof.Machine.execHalt s
  | .blind => Sys2Proof.Machine.execBlind s
  | .neq => Sys2Proof.Machine.execNeq s

end Sys2Proof.Machine
end

