-- ==== Sys2Proof/Machine/CoreStep.lean ====
section
/-! DEFINITION. One step of the core (10_state.md rules R45, R50 to R52). -/

namespace Sys2Proof.Machine

/-- The normal end of a run: STATUS ENDED and exit code 0 (R50, R240). -/
def State.endRun (s : State) : State := s.terminate .ended Config.exitEnd

/-- What the core does in RUNNING when no output event waits: the normal end is found before any fetch, else one instruction
is fetched and executed (R50, R51). Both faults stand for states that R24 and R51 say the machine never reaches. -/
def runOne (s : State) : Outcome :=
  if s.pc = s.len then .next s.endRun
  else if Config.stackDepth < s.sp.toNat then .fault .sizeCursorOutOfRange
  else
    match s.fetch with
    | some i => exec i s
    | none => .fault .fetchOutsideProgram

/-- The core's own step. Outside RUNNING no instruction executes, and while an output event waits for the host the core waits;
in both cases the state stays as it is (R45, R50, R53, 60_exceptions.md rule R255). -/
def coreStep (s : State) : Outcome :=
  match s.status, s.offered with
  | .running, none => runOne s
  | .running, some _ => .next s
  | _, _ => .next s

/-- The step under the host duty of R47, with acceptance taken as immediate, as R45 allows a model to: in RUNNING, an event
that still waits is accepted before the instruction begins. Log entry 3. -/
def stepAccepting (s : State) : Outcome :=
  match s.status with
  | .running => coreStep s.acceptOutput
  | _ => .next s

end Sys2Proof.Machine
end

