-- ==== Sys2Proof/WellFormed.lean ====
section
/-! DEFINITION. The checks of the toolchain and load side. A decoded instruction needs no check: its operand is any 64-bit
value (30_encoding.md rule R93) and its kind is one of 14 (R92), so the type `Instr` holds exactly the well-formed ones. What
can be ill formed is an instruction word, an image text and a program too long for program memory. -/

namespace Sys2Proof

/-- A word is legal exactly when its opcode field is 0 to 13; the other 242 opcode values are illegal (R96). -/
def wordLegal (w : InsnWord) : Bool := decide ((w.extractLsb' 64 8).toNat ≤ 13)

/-- One stored character is '0' (0x30) or '1' (0x31) (R100). -/
def imageCharLegal (c : Byte) : Bool := c == 0x30#8 || c == 0x31#8

/-- An image is well formed exactly when its length is a multiple of 72 and it holds no character but '0' and '1' (R103). -/
def imageWellFormed (text : List Byte) : Bool := text.length % 72 == 0 && text.all imageCharLegal

/-- A program fits in a program memory of `depth` (PROG_DEPTH) entries (R28, R42). -/
def programFits (depth : Word) (p : List Instr) : Bool := decide (p.length ≤ depth.toNat)

end Sys2Proof
end

