-- ==== Sys2Proof/Machine/Image.lean ====
section
/-! DEFINITION. The image format of the host and toolchain side (30_encoding.md rules R100 to R106). An image is the bytes of a
file, one stored character each, '0' as 0x30 and '1' as 0x31 (R100). -/

namespace Sys2Proof.Machine

/-! ### Writing -/

/-- The stored character of one bit (R100). -/
def bitChar (b : Bool) : Byte := if b then 0x31#8 else 0x30#8

/-- The 72-character record of a word: character i stands for W[71-i] (R100). -/
def writeRecord (w : InsnWord) : List Byte := (List.range 72).map fun i => bitChar (w.getLsbD (71 - i))

/-- The image of a list of words: their records in order, with nothing between or around them (R102). -/
def writeWords (ws : List InsnWord) : List Byte := ws.flatMap writeRecord

/-- The image of a program (R99, R100, R102). -/
def writeImage (p : List Instr) : List Byte := writeWords (p.map encode)

/-- The binary digits of `n` below 2^(fuel + 1), most significant first, with no leading zero; "0" for 0. -/
def binaryDigits : Nat → Nat → List Bool
  | 0, n => [n % 2 == 1]
  | fuel + 1, n => if n < 2 then [n == 1] else binaryDigits fuel (n / 2) ++ [n % 2 == 1]

/-- Left-zero-padding up to the next multiple of `m` digits (R101). -/
def padLeft (m : Nat) (ds : List Bool) : List Bool := List.replicate ((m - ds.length % m) % m) false ++ ds

/-- The record as the source's encoder forms it: the opcode's binary digits padded to a multiple of 8, then the operand's
padded to a multiple of 64, the operand being 0 when absent (R101). -/
def writeRecordByFields (i : Instr) : List Byte :=
  (padLeft 8 (binaryDigits 7 (opcodeOf i).toNat) ++ padLeft 64 (binaryDigits 63 (operandOf i).toNat)).map bitChar

/-! ### Reading -/

/-- The bit that a stored character stands for; none for any character but '0' and '1' (R100, R103). -/
def charBit (c : Byte) : Option Bool :=
  if c = 0x30#8 then some false else if c = 0x31#8 then some true else none

/-- The bits of a text, in order; none when a character is neither '0' nor '1' (R103). -/
def textBits : List Byte → Option (List Bool)
  | [] => some []
  | c :: cs =>
    match charBit c, textBits cs with
    | some b, some bs => some (b :: bs)
    | _, _ => none

/-- The value of a string of bits read as an unsigned binary integer, most significant bit first. -/
def bitsValue (bs : List Bool) : Nat := bs.foldl (fun n b => 2 * n + b.toNat) 0

/-- The word of one record's bits: the first bit is W[71] (R100). -/
def recordWord (bs : List Bool) : InsnWord := BitVec.ofNat 72 (bitsValue bs)

/-- The word of one record as the source's decoder segments it: nine chunks of eight bits, each parsed as an unsigned binary
integer, the first the opcode field, the rest the operand field from its most significant byte down (R104). -/
def recordWordByChunks (bs : List Bool) : InsnWord :=
  let chunk (j : Nat) : BitVec 8 := BitVec.ofNat 8 (bitsValue ((bs.drop (8 * j)).take 8))
  chunk 0 ++ (chunk 1 ++ chunk 2 ++ chunk 3 ++ chunk 4 ++ chunk 5 ++ chunk 6 ++ chunk 7 ++ chunk 8)

/-- Cuts bits into `n` records of 72 (R103). -/
def cutRecords : Nat → List Bool → List InsnWord
  | 0, _ => []
  | n + 1, bs => recordWord (bs.take 72) :: cutRecords n (bs.drop 72)

/-- ReadImage(text): the words of an image; none is the failure MALFORMED_IMAGE (R103). -/
def readImage (text : List Byte) : Option (List InsnWord) :=
  if text.length % 72 = 0 then (textBits text).map (cutRecords (text.length / 72)) else none

/-- The source's `decode` of an image: ReadImage, then Decode on each word (R106). -/
def decodeImage (text : List Byte) : Option (List Instr) := (readImage text).bind decodeAll

end Sys2Proof.Machine
end

