-- ==== Sys2Proof/Machine/Loader.lean ====
section
/-! DEFINITION. The host's actions on the block (10_state.md rules R40 to R45, 30_encoding.md rule R105, 60_exceptions.md rule
R237). They land between steps, never inside an instruction (00_scope.md rule R8). PROG_DEPTH is the argument `depth`
(92_eei_decisions.md D12, log entry 6). -/

namespace Sys2Proof.Machine

/-- A load is accepted in IDLE and ENDED only (R42). -/
def State.acceptsLoad (s : State) : Bool := s.status == .idle || s.status == .ended

/-- Taking a load error: STATUS LOAD_FAULTED, its CAUSE and exit code 101; all else is kept (R42, R237). -/
def State.loadFault (c : Cause) (s : State) : State :=
  { s with status := .loadFaulted, cause := c, exitCode := Config.exitLoad }

/-- Appends decoded instructions at index len, all of them or none; PROGRAM_FULL when they do not fit (R42, R43). -/
def State.appendBatch (depth : Word) (is : List Instr) (s : State) : State :=
  if depth.toNat < s.len.toNat + is.length then s.loadFault .programFull
  else { s with prog := s.prog.take s.len.toNat ++ is, len := s.len + BitVec.ofNat 64 is.length }

/-- load(words): the whole batch is decoded before the capacity check (R42, R239). Where it is not accepted it has no effect. -/
def State.load (depth : Word) (ws : List InsnWord) (s : State) : State :=
  if s.acceptsLoad then
    match decodeAll ws with
    | some is => s.appendBatch depth is
    | none => s.loadFault .illegalOpcode
  else s

/-- loadDirect(instrs): the same without the decoding (R43). -/
def State.loadDirect (depth : Word) (is : List Instr) (s : State) : State :=
  if s.acceptsLoad then s.appendBatch depth is else s

/-- loadImage(text): ReadImage, then load; a malformed image is a load error under load's own status conditions (R105, R241,
log entry 10). -/
def State.loadImage (depth : Word) (text : List Byte) (s : State) : State :=
  if s.acceptsLoad then
    match readImage text with
    | some ws => s.load depth ws
    | none => s.loadFault .malformedImage
  else s

/-- run: accepted in IDLE and ENDED, keeping pc, sp and the stack; without effect in every other status (R44). -/
def State.run (s : State) : State :=
  match s.status with
  | .idle => { s with status := .running }
  | .ended => { s with status := .running }
  | .running => s
  | .halted => s
  | .faulted => s
  | .loadFaulted => s

/-- What the host can do to the block (R40, R45, R105). Reading the status port has no side effect (R46) and is not listed. -/
inductive HostAction where
  /-- reset, in any status (R41). -/
  | reset
  /-- load(words) (R42). -/
  | load (ws : List InsnWord)
  /-- loadDirect(instrs) (R43). -/
  | loadDirect (is : List Instr)
  /-- loadImage(text) (R105). -/
  | loadImage (text : List Byte)
  /-- run (R44). -/
  | run
  /-- Accepting the event the output port offers (R45). -/
  | accept
deriving DecidableEq, Repr

/-- The block after a host action (R40). `reset` restores every reset value at once, whatever the status (R41). -/
def hostAct (depth : Word) (a : HostAction) (s : State) : State :=
  match a with
  | .reset => State.reset
  | .load ws => s.load depth ws
  | .loadDirect is => s.loadDirect depth is
  | .loadImage text => s.loadImage depth text
  | .run => s.run
  | .accept => s.acceptOutput

/-- What `State.withFetchWord` gives: the decoded instruction placed at pc and the run started, or, for a word that does not
decode, the load error ILLEGAL_OPCODE (R42, log entry 1). -/
def fetchWordPlaced (s : State) (nbits w : Nat) : State :=
  match decodeTableWord nbits w with
  | some i => s.placeAtPc i
  | none => s.loadFault .illegalOpcode

end Sys2Proof.Machine
end

