-- ==== Sys2Proof/Machine/Step.lean ====
section
/-! DEFINITION. The step of the machine, and the placing of an instruction where it fetches. -/

namespace Sys2Proof.Machine

/-- One step: the core's step (10_state.md rule R50), output events being accepted at once (R45, log entry 3). -/
def step (s : State) : Host.Outcome State Fault Refusal := stepAccepting s

/-- `s` with the opcode table's instruction, bits `w`, placed where the next step fetches, the program loaded and the run
started. A word that does not decode is rejected as a load rejects it (R42, log entry 1). -/
def State.withFetchWord (s : State) (nbits w : Nat) : State := fetchWordPlaced s nbits w

end Sys2Proof.Machine
end

