-- ==== Sys2Proof/Machine/Assembler.lean ====
section
/-! DEFINITION. The assembler of the toolchain side (30_encoding.md rules R107 to R114). It holds no state of the block; its
only error, the syntax error, never reaches the block (R111, 60_exceptions.md rule R230). -/

namespace Sys2Proof.Machine

/-! ### Lines and tokens -/

/-- Whitespace within a line: tab, line feed, vertical tab, form feed, carriage return and space of ASCII; outside ASCII the
question is open (R107, log entry 13). -/
def isBlank (c : Char) : Bool :=
  if c.toNat < 128 then c == ' ' || (decide (9 ≤ c.toNat) && decide (c.toNat ≤ 13)) else Config.nonAsciiBlank c

/-- The lines of a text, split at line feeds; a carriage return before one is whitespace of its line (R107, log entry 13). -/
def splitLines : List Char → List (List Char)
  | [] => [[]]
  | c :: cs =>
    if c = '\n' then [] :: splitLines cs
    else
      match splitLines cs with
      | l :: ls => (c :: l) :: ls
      | [] => [[c]]

/-- The tokens of a line, split on whitespace (R107); `cur` holds the token begun, in reverse. -/
def tokensFrom (cur : List Char) : List Char → List (List Char)
  | [] => if cur = [] then [] else [cur.reverse]
  | c :: cs =>
    if isBlank c then (if cur = [] then tokensFrom [] cs else cur.reverse :: tokensFrom [] cs)
    else tokensFrom (c :: cur) cs

/-- The tokens of a line (R107). -/
def tokens (line : List Char) : List (List Char) := tokensFrom [] line

/-! ### Operands and instructions -/

/-- The value of an ASCII digit 0 to 9 (R110). -/
def digitValue (c : Char) : Option Nat := if 48 ≤ c.toNat ∧ c.toNat ≤ 57 then some (c.toNat - 48) else none

/-- The value of a string of digits read in decimal, on from the value `acc`; none when a character is no digit. -/
def decimalFrom (acc : Nat) : List Char → Option Nat
  | [] => some acc
  | c :: cs =>
    match digitValue c with
    | some d => decimalFrom (10 * acc + d) cs
    | none => none

/-- An operand token: one or more ASCII digits with a value of at most 2^64 - 1; leading zeros allowed, no sign (R110). -/
def parseOperand (t : List Char) : Option Word :=
  match t with
  | [] => none
  | c :: cs =>
    match decimalFrom 0 (c :: cs) with
    | some n => if n < 2 ^ 64 then some (BitVec.ofNat 64 n) else none
    | none => none

/-- What one line is (R107 to R111). -/
inductive LineResult where
  /-- A line with no tokens is skipped (R107). -/
  | skipped
  /-- A line that is an instruction. -/
  | instr (i : Instr)
  /-- A bad or missing operand, or an unrecognized mnemonic (R108, R110). -/
  | bad
deriving DecidableEq, Repr

/-- The line of an operand mnemonic: the second token is the operand and later tokens are ignored (R110). -/
def operandLine (mk : Word → Instr) (rest : List (List Char)) : LineResult :=
  match rest with
  | [] => .bad
  | t :: _ =>
    match parseOperand t with
    | some n => .instr (mk n)
    | none => .bad

/-- The instruction of a line's tokens; a zero-operand mnemonic ignores further tokens (R108, R109, R110). -/
def assembleTokens : List (List Char) → LineResult
  | [] => .skipped
  | m :: rest =>
    if m = "push".toList then operandLine .push rest
    else if m = "add".toList then .instr .add
    else if m = "sub".toList then .instr .sub
    else if m = "mul".toList then .instr .mul
    else if m = "div".toList then .instr .div
    else if m = "dup".toList then operandLine .dup rest
    else if m = "dump".toList then .instr .dump
    else if m = "print".toList then .instr .print
    else if m = "jmp".toList then operandLine .jmp rest
    else if m = "eq".toList then .instr .eq
    else if m = "jnz".toList then operandLine .jnz rest
    else if m = "halt".toList then .instr .halt
    else if m = "blind".toList then .instr .blind
    else if m = "neq".toList then .instr .neq
    else .bad

/-- What an assembly gives: a program, or a syntax error with the 0-based physical line number (R111). -/
inductive Assembled where
  | program (is : List Instr)
  | syntaxError (line : Nat)
deriving DecidableEq, Repr

/-- Assembles lines in file order, the first being line `n`: one instruction per line not skipped, no reordering, no check of
jump targets (R111, R112). -/
def assembleLines (n : Nat) : List (List Char) → Assembled
  | [] => .program []
  | l :: ls =>
    match assembleTokens (tokens l) with
    | .skipped => assembleLines (n + 1) ls
    | .bad => .syntaxError n
    | .instr i =>
      match assembleLines (n + 1) ls with
      | .program is => .program (i :: is)
      | .syntaxError k => .syntaxError k

/-- Assembles a source text (R107 to R112). -/
def assemble (text : List Char) : Assembled := assembleLines 0 (splitLines text)

/-- What compile gives: an image, or the exit code of a syntax error and its line; no image is written then (R111). -/
inductive Compiled where
  | image (text : List Byte)
  | failed (exitCode : Word) (line : Nat)
deriving DecidableEq, Repr

/-- compile: the assembler, then the encoder (R111). -/
def compile (text : List Char) : Compiled :=
  match assemble text with
  | .program is => .image (writeImage is)
  | .syntaxError line => .failed Config.exitLoad line

/-! ### The printed form -/

/-- The ASCII digit of a value 0 to 9. -/
def digitChar (d : Nat) : Char := Char.ofNat (48 + d)

/-- The decimal digits of `n` below 10^(fuel + 1), most significant first, put before `acc`. -/
def decimalDigits : Nat → Nat → List Char → List Char
  | 0, n, acc => digitChar (n % 10) :: acc
  | fuel + 1, n, acc =>
    if n < 10 then digitChar n :: acc else decimalDigits fuel (n / 10) (digitChar (n % 10) :: acc)

/-- An operand in decimal (R114). -/
def printOperand (n : Word) : List Char := decimalDigits 19 n.toNat []

/-- The printed form: the lowercase mnemonic, then one space and the operand in decimal for the four operand kinds (R114). -/
def printInstr : Instr → List Char
  | .push n => "push ".toList ++ printOperand n
  | .add => "add".toList
  | .sub => "sub".toList
  | .mul => "mul".toList
  | .div => "div".toList
  | .dup k => "dup ".toList ++ printOperand k
  | .dump => "dump".toList
  | .print => "print".toList
  | .jmp n => "jmp ".toList ++ printOperand n
  | .eq => "eq".toList
  | .jnz n => "jnz ".toList ++ printOperand n
  | .halt => "halt".toList
  | .blind => "blind".toList
  | .neq => "neq".toList

/-- A program printed one instruction a line, each line ended by a line feed. -/
def printProgram (p : List Instr) : List Char := p.flatMap fun i => printInstr i ++ ['\n']

end Sys2Proof.Machine
end

