-- ==== Sys2Proof/Machine/Signals.lean ====
section
/-! DEFINITION. The informative signal-level form of the interface (92_eei_decisions.md, "D8 and D14: signal-level form"). It
adds nothing to rules R40 to R47: here are the transfers each port carries, in order, without cycles. -/

namespace Sys2Proof.Machine

/-- The kind of an output transfer, out_kind; its code 3 is unused (D8). -/
inductive OutKind where
  | print
  | dumpHeader
  | dumpElement
deriving DecidableEq, Repr

/-- The 2-bit code of out_kind (D8). -/
def OutKind.code : OutKind → BitVec 2
  | .print => 0#2
  | .dumpHeader => 1#2
  | .dumpElement => 2#2

/-- One transfer of the output port: out_kind and out_data (D8). -/
structure OutTransfer where
  kind : OutKind
  data : Word
deriving DecidableEq, Repr

/-- The transfers of an event: a Print is one; a Dump is a header that carries the count, then one transfer for each element,
bottom first (D8). -/
def OutEvent.transfers : OutEvent → List OutTransfer
  | .print v => [⟨.print, v⟩]
  | .dump vs => ⟨.dumpHeader, BitVec.ofNat 64 vs.length⟩ :: vs.map fun v => ⟨.dumpElement, v⟩

/-- One transfer of the load port: load_word, load_last and load_empty (D14). -/
structure LoadTransfer where
  word : InsnWord
  last : Bool
  empty : Bool
deriving DecidableEq, Repr

/-- The word a transfer carries: none when load_empty and load_last are both high (D14). -/
def LoadTransfer.words (t : LoadTransfer) : List InsnWord := if t.last && t.empty then [] else [t.word]

/-- The first batch of a sequence of transfers, up to and with the first load_last, and the transfers after it; none while the
batch is not complete (D14). -/
def firstBatch : List LoadTransfer → Option (List InsnWord × List LoadTransfer)
  | [] => none
  | t :: ts =>
    if t.last then some (t.words, ts)
    else
      match firstBatch ts with
      | some (ws, rest) => some (t.words ++ ws, rest)
      | none => none

/-- The stack read port outside RUNNING: stk_data is S[stk_addr], valid only when stk_addr is below sp (D8, R46). -/
def State.stackPort (s : State) (addr : BitVec 11) : Option Word :=
  if s.status ≠ .running ∧ addr.toNat < s.sp.toNat then some (s.slot addr.toNat) else none

end Sys2Proof.Machine
end

