-- ==== Sys2Proof/Machine/StatusPort.lean ====
section
/-! DEFINITION. What the host reads: the status port (10_state.md rule R46), the end of a run (60_exceptions.md rule R260) and
the host's exit status (R245). A read has no side effect. -/

namespace Sys2Proof.Machine

/-- The 3-bit code of STATUS (R30). -/
def Status.code : Status → BitVec 3
  | .idle => 0#3
  | .running => 1#3
  | .ended => 2#3
  | .halted => 3#3
  | .faulted => 4#3
  | .loadFaulted => 5#3

/-- The 4-bit code of CAUSE (R31). -/
def Cause.code : Cause → BitVec 4
  | .none => 0#4
  | .stackOverflow => 1#4
  | .stackUnderflow => 2#4
  | .divideByZero => 3#4
  | .illegalMemoryAccess => 4#4
  | .illegalOpcode => 8#4
  | .malformedImage => 9#4
  | .programFull => 10#4

/-- The statuses that only reset leaves (R30, R241). -/
def Status.terminal : Status → Bool
  | .idle => false
  | .running => false
  | .ended => false
  | .halted => true
  | .faulted => true
  | .loadFaulted => true

/-- What the status port shows (R46). -/
structure StatusView where
  status : BitVec 3
  cause : BitVec 4
  exitCode : Word
  pc : Word
  len : Word
  sp : BitVec 12
  live : List Word
deriving DecidableEq, Repr

/-- The status port: readable at any time outside RUNNING (R46). -/
def State.statusPort (s : State) : Option StatusView :=
  if s.status = .running then none
  else some ⟨s.status.code, s.cause.code, s.exitCode, s.pc, s.len, s.sp, s.live⟩

/-- What the end of a run shows, read from the status and output ports (R260). -/
structure Observation where
  status : Status
  cause : Cause
  exitCode : Word
  out : List OutEvent
  sp : BitVec 12
  live : List Word
  pc : Word
deriving DecidableEq, Repr

/-- The observation of a run that has ended: in ENDED, HALTED or FAULTED (R260). -/
def State.observe (s : State) : Option Observation :=
  match s.status with
  | .idle => none
  | .running => none
  | .loadFaulted => none
  | .ended => some ⟨s.status, s.cause, s.exitCode, s.out, s.sp, s.live, s.pc⟩
  | .halted => some ⟨s.status, s.cause, s.exitCode, s.out, s.sp, s.live, s.pc⟩
  | .faulted => some ⟨s.status, s.cause, s.exitCode, s.out, s.sp, s.live, s.pc⟩

/-- The 64-bit code of an end state, before any narrowing (R245). -/
def State.endCode (s : State) : Option Word :=
  match s.status with
  | .idle => none
  | .running => none
  | .loadFaulted => some Config.exitLoad
  | .faulted => some Config.exitRuntime
  | .halted => some s.exitCode
  | .ended => some Config.exitEnd

/-- The process exit status. A HALT code is narrowed by the host's open map; the fixed codes are given as they stand (R245,
log entry 12). -/
def State.processExit (s : State) : Option Nat :=
  match s.status with
  | .idle => none
  | .running => none
  | .loadFaulted => some Config.exitLoad.toNat
  | .faulted => some Config.exitRuntime.toNat
  | .halted => some (Config.hostExitMap s.exitCode)
  | .ended => some Config.exitEnd.toNat

end Sys2Proof.Machine
end

