-- ==== Sys2Proof/Safety.lean ====
section
/-! DEFINITION. What holds of a good state, and the terms the statements use: the invariant of the reachable states (10_state.md
rule R53 with R22 to R35), what a reachable state is, the table of an instruction's checks (30_encoding.md rule R115,
60_exceptions.md rule R238), and states that differ in stale slots only (R25). Nothing here is used by the machine. -/

namespace Sys2Proof.Machine

/-! ### The invariant -/

/-- STATUS, CAUSE and EXIT_CODE agree (R31, R32), and in IDLE no run has begun (R30). -/
def State.registersAgree (s : State) : Bool :=
  match s.status with
  | .idle => s.cause == .none && s.exitCode == 0#64 && s.pc == 0#64 && s.sp == 0#12 && s.out == []
  | .running => s.cause == .none && s.exitCode == 0#64
  | .ended => s.cause == .none && s.exitCode == 0#64
  | .halted => s.cause == .none
  | .faulted =>
    (s.cause == .stackOverflow || s.cause == .stackUnderflow || s.cause == .divideByZero || s.cause == .illegalMemoryAccess)
      && s.exitCode == 202#64
  | .loadFaulted =>
    (s.cause == .illegalOpcode || s.cause == .malformedImage || s.cause == .programFull) && s.exitCode == 101#64

/-- What holds in every reachable state of a block with PROG_DEPTH = `depth` (R53). -/
structure Inv (depth : Word) (s : State) : Prop where
  /-- 0 ≤ sp ≤ 2048 (R24). -/
  sp_le : s.sp.toNat ≤ 2048
  /-- 0 ≤ pc ≤ len (R26). -/
  pc_le : s.pc.toNat ≤ s.len.toNat
  /-- len ≤ PROG_DEPTH (R28). -/
  len_le : s.len.toNat ≤ depth.toNat
  /-- Program memory holds exactly the instructions loaded (R28, R61). -/
  prog_length : s.prog.length = s.len.toNat
  /-- The stack's storage is in canonical form, with no slot but 0 to 2047 (R22). -/
  stack_wf : s.stack.wf = true
  /-- A Dump event holds 0 to 2048 words (R35). -/
  dump_length : ∀ vs, OutEvent.dump vs ∈ s.out → vs.length ≤ 2048
  /-- The event offered is the last one emitted (R45). -/
  offered_last : ∀ e, s.offered = some e → s.out.getLast? = some e
  /-- The three termination registers agree (R31, R32). -/
  registers : s.registersAgree = true

/-- A state that a block with PROG_DEPTH = `depth` can reach from reset, the host acting between steps in any way it likes
(00_scope.md rule R8, R40). -/
inductive Reachable (depth : Word) : State → Prop
  | reset : Reachable depth State.reset
  | core {s t : State} : Reachable depth s → coreStep s = .next t → Reachable depth t
  | host {s : State} (a : HostAction) : Reachable depth s → Reachable depth (hostAct depth a s)

/-! ### The table of checks -/

/-- The jump target check fails: n ≥ len, for JMP and JNZ (R238, first). -/
def targetFails (i : Instr) (s : State) : Bool :=
  match i with
  | .jmp n => decide (s.len.toNat ≤ n.toNat)
  | .jnz n => decide (s.len.toNat ≤ n.toNat)
  | .push _ => false
  | .add => false
  | .sub => false
  | .mul => false
  | .div => false
  | .dup _ => false
  | .dump => false
  | .print => false
  | .eq => false
  | .halt => false
  | .blind => false
  | .neq => false

/-- The number of elements an instruction needs on the stack, the column `need` of R115. -/
def needDepth (i : Instr) : Nat :=
  match i with
  | .push _ => 0
  | .add => 2
  | .sub => 2
  | .mul => 2
  | .div => 2
  | .dup k => k.toNat + 1
  | .dump => 0
  | .print => 1
  | .jmp _ => 0
  | .eq => 2
  | .jnz _ => 1
  | .halt => 1
  | .blind => 0
  | .neq => 2

/-- The capacity check fails: sp = 2048, for PUSH and DUP, the column `room` of R115 (R238, third). -/
def capacityFails (i : Instr) (s : State) : Bool :=
  match i with
  | .push _ => decide (s.sp.toNat = 2048)
  | .dup _ => decide (s.sp.toNat = 2048)
  | .add => false
  | .sub => false
  | .mul => false
  | .div => false
  | .dump => false
  | .print => false
  | .jmp _ => false
  | .eq => false
  | .jnz _ => false
  | .halt => false
  | .blind => false
  | .neq => false

/-- The operand value check fails: an operand of DIV is 0 (R238, fourth). -/
def valueFails (i : Instr) (s : State) : Bool :=
  match i with
  | .div => s.slot (s.sp.toNat - 2) == 0#64 || s.slot (s.sp.toNat - 1) == 0#64
  | .push _ => false
  | .add => false
  | .sub => false
  | .mul => false
  | .dup _ => false
  | .dump => false
  | .print => false
  | .jmp _ => false
  | .eq => false
  | .jnz _ => false
  | .halt => false
  | .blind => false
  | .neq => false

/-- The CAUSE of the first check that fails, in the fixed order of R238; none when every check passes. -/
def firstError (i : Instr) (s : State) : Option Cause :=
  if targetFails i s then some .illegalMemoryAccess
  else if s.sp.toNat < needDepth i then some .stackUnderflow
  else if capacityFails i s then some .stackOverflow
  else if valueFails i s then some .divideByZero
  else none

/-- The router's choice for an instruction that retires (43_control.md rule R190). -/
def routedPc (i : Instr) (s : State) : Word :=
  match i with
  | .jmp n => n
  | .jnz n => if s.slot (s.sp.toNat - 1) = 1#64 then n else s.pc + 1#64
  | .halt => s.pc
  | .push _ => s.pc + 1#64
  | .add => s.pc + 1#64
  | .sub => s.pc + 1#64
  | .mul => s.pc + 1#64
  | .div => s.pc + 1#64
  | .dup _ => s.pc + 1#64
  | .dump => s.pc + 1#64
  | .print => s.pc + 1#64
  | .eq => s.pc + 1#64
  | .blind => s.pc + 1#64
  | .neq => s.pc + 1#64

/-- The column Δsp of R115: sp after an instruction that retires. -/
def routedSp (i : Instr) (s : State) : Nat :=
  match i with
  | .push _ => s.sp.toNat + 1
  | .dup _ => s.sp.toNat + 1
  | .add => s.sp.toNat - 1
  | .sub => s.sp.toNat - 1
  | .mul => s.sp.toNat - 1
  | .div => s.sp.toNat - 1
  | .eq => s.sp.toNat - 1
  | .neq => s.sp.toNat - 1
  | .halt => s.sp.toNat - 1
  | .jnz _ => if s.slot (s.sp.toNat - 1) = 1#64 then s.sp.toNat - 1 else s.sp.toNat
  | .jmp _ => s.sp.toNat
  | .dump => s.sp.toNat
  | .print => s.sp.toNat
  | .blind => s.sp.toNat

/-! ### Frames -/

/-- The state that taking a runtime error with CAUSE `c` leaves: three registers written, all else kept (R236). -/
def faultedAs (c : Cause) (s : State) : State := { s with status := .faulted, cause := c, exitCode := 202#64 }

/-- Program memory, len, STATUS, CAUSE and EXIT_CODE are unchanged. -/
def SameControl (s t : State) : Prop :=
  t.prog = s.prog ∧ t.len = s.len ∧ t.status = s.status ∧ t.cause = s.cause ∧ t.exitCode = s.exitCode

/-- The output trace and the output port are unchanged. -/
def SameOutput (s t : State) : Prop := t.out = s.out ∧ t.offered = s.offered

/-- Every slot of the stack but `i` reads as before. -/
def SameSlotsBut (i : Nat) (s t : State) : Prop := ∀ j, j ≠ i → t.slot j = s.slot j

/-- Every slot of the stack reads as before. -/
def SameSlots (s t : State) : Prop := ∀ j, t.slot j = s.slot j

/-- A binary operation retired with the result `r`: it stands in the lower operand's slot, sp is one less, pc is one more, and
all else is as before (20_memory.md rule R73). -/
def ReplacesTopTwo (r : Word) (s t : State) : Prop :=
  t.slot (s.sp.toNat - 2) = r ∧ SameSlotsBut (s.sp.toNat - 2) s t ∧ t.sp.toNat = s.sp.toNat - 1 ∧ t.pc = s.pc + 1#64 ∧
  SameControl s t ∧ SameOutput s t

/-- Two states that differ at most in stale slots, those at or above sp (R25). -/
def AgreeOnLive (s t : State) : Prop :=
  t = { s with stack := t.stack } ∧ ∀ j, j < s.sp.toNat → t.slot j = s.slot j

/-- Two outcomes that differ at most in stale slots. -/
def OutcomesAgree : Outcome → Outcome → Prop
  | .next s, .next t => AgreeOnLive s t
  | .fault r, .fault q => r = q
  | .refused r, .refused q => r = q
  | _, _ => False

end Sys2Proof.Machine
end

