-- ==== Sys2Proof/Certificates/Slice0/Obligations.lean ====
section
/-! DEFINITION. The statements for the provers. Each docstring names the rule of spec/ it formalises. "Next state" means that
`exec` or `step` answers `.next`. -/

open Sys2Proof Sys2Proof.Machine

/-! ### Encoding and decoding -/

/-- A few words of 95_test_vectors.md sections 2.1 and 2.2, written out from the encoding, decode as the spec says. -/
def Obligations.WrittenWordsDecode : Prop :=
  decode 0x000000000000000007#72 = .instr (.push 7#64) ∧
  decode 0x00FFFFFFFFFFFFFFFF#72 = .instr (.push 0xFFFFFFFFFFFFFFFF#64) ∧
  decode 0x040000000000000000#72 = .instr .div ∧ decode 0x050000000000000002#72 = .instr (.dup 2#64) ∧
  decode 0x060000000000000000#72 = .instr .dump ∧ decode 0x080000000000000003#72 = .instr (.jmp 3#64) ∧
  decode 0x090000000000000000#72 = .instr .eq ∧ decode 0x0A000000000000000C#72 = .instr (.jnz 12#64) ∧
  decode 0x01FFFFFFFFFFFFFFFF#72 = .instr .add ∧ decode 0x0E0000000000000000#72 = .illegalOpcode 14#8

/-- R95: what Decode gives for each value of the opcode field; every word is an opcode field followed by an operand field. -/
def Obligations.DecodeFollowsOpcodeMap : Prop :=
  (∀ n : Word,
    decode (0#8 ++ n) = .instr (.push n) ∧ decode (1#8 ++ n) = .instr .add ∧ decode (2#8 ++ n) = .instr .sub ∧
    decode (3#8 ++ n) = .instr .mul ∧ decode (4#8 ++ n) = .instr .div ∧ decode (5#8 ++ n) = .instr (.dup n) ∧
    decode (6#8 ++ n) = .instr .dump ∧ decode (7#8 ++ n) = .instr .print ∧ decode (8#8 ++ n) = .instr (.jmp n) ∧
    decode (9#8 ++ n) = .instr .eq ∧ decode (10#8 ++ n) = .instr (.jnz n) ∧ decode (11#8 ++ n) = .instr .halt ∧
    decode (12#8 ++ n) = .instr .blind ∧ decode (13#8 ++ n) = .instr .neq ∧
    ∀ c : BitVec 8, 14 ≤ c.toNat → decode (c ++ n) = .illegalOpcode c) ∧
  ∀ w : InsnWord, ∃ (c : BitVec 8) (n : Word), w = c ++ n

/-- R99: Encode writes the kind's code and the operand, or 0, and decoding what it writes gives the instruction back. -/
def Obligations.EncodeThenDecode : Prop :=
  ∀ i : Instr,
    decode (encode i) = .instr i ∧ (encode i).extractLsb' 64 8 = opcodeOf i ∧ (encode i).extractLsb' 0 64 = operandOf i

/-- R94: a word of a no-operand opcode decodes to the same instruction whatever its operand field, and Encode writes 0 there. -/
def Obligations.OperandFieldIgnored : Prop :=
  ∀ c : BitVec 8, c ∈ [1#8, 2#8, 3#8, 4#8, 6#8, 7#8, 9#8, 11#8, 12#8, 13#8] →
    ∃ i : Instr, (∀ n : Word, decode (c ++ n) = .instr i) ∧ encode i = c ++ 0#64

/-- The converse of R99's round trip: two words that decode to the same instruction have the same opcode field, and the same
operand field when the instruction is one of the four operand kinds. No bit that decides an instruction is dropped. -/
def Obligations.DecodeLosesOnlyIgnoredBits : Prop :=
  ∀ (w : InsnWord) (i : Instr), decode w = .instr i →
    opcodeField w = opcodeOf i ∧
    (opcodeField w ∈ [0#8, 5#8, 8#8, 10#8] → encode i = w)

/-! ### The image -/

/-- R100, R102: an image of n instructions is 72·n characters; character i of record j is '1' exactly when bit 71-i of the
word of instruction j is 1, else '0'. -/
def Obligations.ImageIsRecordsInOrder : Prop :=
  ∀ p : List Instr,
    (writeImage p).length = 72 * p.length ∧
    ∀ (j i : Nat) (x : Instr), p[j]? = some x → i < 72 →
      (writeImage p)[72 * j + i]? = some (if (encode x).getLsbD (71 - i) then 0x31#8 else 0x30#8)

/-- R103: when ReadImage fails, and what words it yields. -/
def Obligations.ReadImageFailsOrYieldsWords : Prop :=
  ∀ text : List Byte,
    (readImage text = none ↔ text.length % 72 ≠ 0 ∨ ∃ c ∈ text, c ≠ 0x30#8 ∧ c ≠ 0x31#8) ∧
    ∀ ws, readImage text = some ws →
      ws.length = text.length / 72 ∧
      ∀ (j i : Nat) (w : InsnWord), ws[j]? = some w → i < 72 →
        text[72 * j + i]? = some (if w.getLsbD (71 - i) then 0x31#8 else 0x30#8)

/-- R106: decoding the image of any program gives the program back. -/
def Obligations.ImageRoundTrip : Prop := ∀ p : List Instr, decodeImage (writeImage p) = some p

/-- R101: the two fields, each padded with zeros, are exactly 8 and 64 characters long and form the record. -/
def Obligations.PaddedFieldsFormRecord : Prop :=
  ∀ i : Instr,
    (padLeft 8 (binaryDigits 7 (opcodeOf i).toNat)).length = 8 ∧
    (padLeft 64 (binaryDigits 63 (operandOf i).toNat)).length = 64 ∧
    writeRecordByFields i = writeRecord (encode i)

/-- R104: reading a record as nine chunks of eight bits gives the same word as reading it whole. -/
def Obligations.ChunkedReaderAgrees : Prop :=
  ∀ bs : List Bool, bs.length = 72 → recordWordByChunks bs = recordWord bs

/-! ### The assembler -/

/-- R108, R109, R110: what the first token decides, further tokens being ignored. -/
def Obligations.MnemonicsSelectInstructions : Prop :=
  (∀ rest : List (List Char),
    assembleTokens ("add".toList :: rest) = .instr .add ∧ assembleTokens ("sub".toList :: rest) = .instr .sub ∧
    assembleTokens ("mul".toList :: rest) = .instr .mul ∧ assembleTokens ("div".toList :: rest) = .instr .div ∧
    assembleTokens ("dump".toList :: rest) = .instr .dump ∧ assembleTokens ("print".toList :: rest) = .instr .print ∧
    assembleTokens ("eq".toList :: rest) = .instr .eq ∧ assembleTokens ("neq".toList :: rest) = .instr .neq ∧
    assembleTokens ("halt".toList :: rest) = .instr .halt ∧ assembleTokens ("blind".toList :: rest) = .instr .blind) ∧
  (∀ (t : List Char) (n : Word) (rest : List (List Char)), parseOperand t = some n →
    assembleTokens ("push".toList :: t :: rest) = .instr (.push n) ∧
    assembleTokens ("dup".toList :: t :: rest) = .instr (.dup n) ∧
    assembleTokens ("jmp".toList :: t :: rest) = .instr (.jmp n) ∧
    assembleTokens ("jnz".toList :: t :: rest) = .instr (.jnz n)) ∧
  (∀ m : List Char, m ∈ ["push".toList, "dup".toList, "jmp".toList, "jnz".toList] →
    assembleTokens [m] = .bad ∧ ∀ t rest, parseOperand t = none → assembleTokens (m :: t :: rest) = .bad) ∧
  ∀ (m : List Char) (rest : List (List Char)),
    m ∉ ["push".toList, "add".toList, "sub".toList, "mul".toList, "div".toList, "dup".toList, "dump".toList, "print".toList,
      "jmp".toList, "eq".toList, "jnz".toList, "halt".toList, "blind".toList, "neq".toList] →
    assembleTokens (m :: rest) = .bad

/-- R110: an operand token is one or more ASCII digits whose value is at most 2^64 - 1. -/
def Obligations.OperandTokenIsDecimal : Prop :=
  ∀ (t : List Char) (n : Word),
    parseOperand t = some n ↔
      t ≠ [] ∧ (∀ c ∈ t, 48 ≤ c.toNat ∧ c.toNat ≤ 57) ∧ t.foldl (fun v c => 10 * v + (c.toNat - 48)) 0 = n.toNat

/-- R111: the syntax error is that of the first bad line, with its 0-based physical number, and compile then writes no image
and gives exit code 101. -/
def Obligations.FirstBadLineIsReported : Prop :=
  ∀ (text : List Char) (k : Nat),
    (assemble text = .syntaxError k ↔
      (∃ l, (splitLines text)[k]? = some l ∧ assembleTokens (tokens l) = .bad) ∧
      ∀ j l, j < k → (splitLines text)[j]? = some l → assembleTokens (tokens l) ≠ .bad) ∧
    (assemble text = .syntaxError k → compile text = .failed 101#64 k)

/-- R114, R112: assembling the printed form gives back the instruction, and a program printed one instruction a line. -/
def Obligations.PrintedFormAssembles : Prop :=
  (∀ i : Instr, assemble (printInstr i) = .program [i]) ∧ ∀ p : List Instr, assemble (printProgram p) = .program p

/-- From source text to program memory: compile gives an image of the printed program, and loading it does what loading the
program directly does, in every state (R99, R105, R106, R111, R114). That neither has an effect in RUNNING is the model's reading
(DEDUCED, log entry 11). -/
def Obligations.CompiledProgramLoads : Prop :=
  ∀ p : List Instr, ∃ image, compile (printProgram p) = .image image ∧
    ∀ (depth : Word) (s : State), s.loadImage depth image = s.loadDirect depth p

/-! ### Reset and the host's actions -/

/-- R34, R41: the reset values, held by the state after reset and restored by the host's reset in any state. The contents of
program memory, which R34 leaves unspecified, and of the output port are not claimed here (log entries 4 and 7). -/
def Obligations.ResetRestoresResetValues : Prop :=
  ∀ (depth : Word) (s r : State), r = hostAct depth .reset s ∨ r = State.reset →
    (∀ i, i < 2048 → r.slot i = 0#64) ∧ r.sp = 0#12 ∧ r.pc = 0#64 ∧ r.len = 0#64 ∧ r.status = .idle ∧ r.cause = .none ∧
    r.exitCode = 0#64 ∧ r.out = []

/-- R42: what load does in IDLE and ENDED, and that it has no effect in a terminal status. That it leaves the state as it is in
RUNNING too, where R42 says only that it is not accepted, is the model's reading (DEDUCED, log entry 11). The hypothesis of the
last clause says that program memory holds `len` instructions, which is part of the invariant `Inv`. -/
def Obligations.LoadAppendsWholeBatchOrNothing : Prop :=
  ∀ (depth : Word) (ws : List InsnWord) (s : State),
    (s.status ≠ .idle → s.status ≠ .ended → s.load depth ws = s) ∧
    (s.status = .idle ∨ s.status = .ended →
      ((∃ w ∈ ws, ∃ c, decode w = .illegalOpcode c) →
        s.load depth ws = { s with status := .loadFaulted, cause := .illegalOpcode, exitCode := 101#64 }) ∧
      ∀ is : List Instr, ws.map decode = is.map Decoded.instr →
        (depth.toNat < s.len.toNat + ws.length →
          s.load depth ws = { s with status := .loadFaulted, cause := .programFull, exitCode := 101#64 }) ∧
        (s.len.toNat + ws.length ≤ depth.toNat → s.prog.length = s.len.toNat →
          ∃ t, s.load depth ws = t ∧ t.len.toNat = s.len.toNat + ws.length ∧
            (∀ j, j < s.len.toNat → t.prog[j]? = s.prog[j]?) ∧ (∀ j, t.prog[s.len.toNat + j]? = is[j]?) ∧
            t = { s with prog := t.prog, len := t.len }))

/-- R43: loadDirect does what a load of the encoded instructions does, and PROGRAM_FULL is its only failure. -/
def Obligations.LoadDirectMatchesLoad : Prop :=
  ∀ (depth : Word) (is : List Instr) (s : State),
    s.loadDirect depth is = s.load depth (is.map encode) ∧
    ((s.loadDirect depth is).status ≠ s.status → (s.loadDirect depth is).cause = .programFull)

/-- R62: two batches loaded one after the other are one batch. -/
def Obligations.SuccessiveLoadsConcatenate : Prop :=
  ∀ (depth : Word) (s : State) (as bs : List Instr), Inv depth s → s.status = .idle ∨ s.status = .ended →
    s.len.toNat + as.length + bs.length ≤ depth.toNat →
    (s.loadDirect depth as).loadDirect depth bs = s.loadDirect depth (as ++ bs) ∧
    (s.loadDirect depth (as ++ bs)).prog = s.prog ++ as ++ bs

/-- R105: loadImage in the statuses that accept a load. The last clause, that a status which accepts no load is left alone
even by a malformed image, is the model's reading, DEDUCED from R241 and R63 (log entry 10; in RUNNING log entry 11). -/
def Obligations.LoadImageReadsThenLoads : Prop :=
  ∀ (depth : Word) (text : List Byte) (s : State),
    (s.status = .idle ∨ s.status = .ended →
      (readImage text = none →
        s.loadImage depth text = { s with status := .loadFaulted, cause := .malformedImage, exitCode := 101#64 }) ∧
      ∀ ws, readImage text = some ws → s.loadImage depth text = s.load depth ws) ∧
    (s.status ≠ .idle → s.status ≠ .ended → s.loadImage depth text = s)

/-- R237: a host action that enters LOAD_FAULTED writes exit code 101 and one of the three load causes; pc, sp, the stack, the
program already loaded and `out` are unchanged. -/
def Obligations.LoadErrorKeepsTheRest : Prop :=
  ∀ (depth : Word) (a : HostAction) (s t : State), hostAct depth a s = t → s.status ≠ .loadFaulted → t.status = .loadFaulted →
    t.exitCode = 101#64 ∧ t.cause ∈ [Cause.illegalOpcode, .programFull, .malformedImage] ∧ t.pc = s.pc ∧ t.sp = s.sp ∧
    SameSlots s t ∧ t.prog = s.prog ∧ t.len = s.len ∧ t.out = s.out

/-- R44: run in IDLE and ENDED starts the core and keeps everything else; in every other status it has no effect. -/
def Obligations.RunStartsOrResumes : Prop :=
  ∀ s : State,
    (s.status = .idle ∨ s.status = .ended → s.run = { s with status := .running }) ∧
    (s.status ≠ .idle → s.status ≠ .ended → s.run = s)

/-- R241: in HALTED, FAULTED and LOAD_FAULTED the core does not step and no host action but reset has an effect, except that
the host may still accept the last output event (R45), which changes nothing but the output port. Two clauses are the model's
reading: that a step there answers the same state (DEDUCED, log entry 2), and that loadImage of a malformed image has no effect
there (DEDUCED, log entry 10). The output port's event is a field of the model (log entry 4). -/
def Obligations.TerminalStatusLastsUntilReset : Prop :=
  ∀ (depth : Word) (s : State), s.status = .halted ∨ s.status = .faulted ∨ s.status = .loadFaulted →
    coreStep s = .next s ∧ step s = .next s ∧
    (∀ a : HostAction, a ≠ .reset → a ≠ .accept → hostAct depth a s = s) ∧
    hostAct depth .accept s = { s with offered := none }

/-! ### The step -/

/-- R50, R51: in RUNNING, with no output event waiting, one step executes the instruction at pc. The machine's step first takes
the host's acceptance of a waiting event as given (R45; log entry 3). -/
def Obligations.StepRunsTheInstructionAtPc : Prop :=
  ∀ (s : State) (i : Instr), s.status = .running → s.sp.toNat ≤ 2048 → s.pc < s.len → s.prog[s.pc.toNat]? = some i →
    (s.offered = none → coreStep s = exec i s) ∧ step s = exec i { s with offered := none }

/-- The host's placing of an instruction: the very next step fetches and runs the instruction that the decoder reads from the
word, in every state whose program memory has no gap below pc. This is the model's `withFetchWord` (log entry 1). -/
def Obligations.PlacedWordRunsNext : Prop :=
  ∀ (s : State) (nbits w : Nat) (i : Instr), decodeTableWord nbits w = some i → s.sp.toNat ≤ 2048 →
    s.pc.toNat ≤ s.prog.length → s.pc.toNat < 2 ^ 64 - 1 →
    (s.withFetchWord nbits w).prog[s.pc.toNat]? = some i ∧
    step (s.withFetchWord nbits w) = exec i { s.withFetchWord nbits w with offered := none }

/-- R273, R44: a word loaded at the end of the program and a run bring the word's instruction to execution, when pc stands at
the old end: after reset, and after a normal end. The machine's step takes acceptance of output as immediate (log entry 3). -/
def Obligations.LoadedWordRunsAfterRun : Prop :=
  ∀ (depth : Word) (s : State) (w : InsnWord) (i : Instr), Inv depth s → s.status = .idle ∨ s.status = .ended →
    s.pc = s.len → s.len.toNat < depth.toNat → decode w = .instr i →
    step (s.load depth [w]).run = exec i { (s.load depth [w]).run with offered := none }

/-- R50, R240: when pc = len the step ends the run in ENDED with exit code 0, and all else is kept. -/
def Obligations.NormalEndBeforeAnyFetch : Prop :=
  ∀ s : State, s.status = .running → s.offered = none → s.pc = s.len →
    coreStep s = .next { s with status := .ended, exitCode := 0#64 } ∧
    step s = .next { s with status := .ended, exitCode := 0#64 }

/-- R45, R255: while an event waits for the host, the core's step changes nothing; accepting it frees the port and changes
nothing else. The port's event is a field of the model (log entry 4). -/
def Obligations.CoreWaitsForAcceptance : Prop :=
  ∀ (depth : Word) (s : State) (e : OutEvent), s.status = .running → s.offered = some e →
    coreStep s = .next s ∧ hostAct depth .accept s = { s with offered := none }

/-- R53: outside RUNNING no instruction executes. That the model's step then answers the same state, and not a stop, is its own
reading (DEDUCED, log entry 2). -/
def Obligations.NothingExecutesOutsideRunning : Prop :=
  ∀ s : State, s.status ≠ .running → coreStep s = .next s ∧ step s = .next s

/-! ### The instructions -/

/-- R140: PUSH n. -/
def Obligations.PushPushesImmediate : Prop :=
  ∀ (n : Word) (s : State),
    encode (.push n) = 0x00#8 ++ n ∧
    (s.sp.toNat < 2048 →
      ∃ t, exec (.push n) s = .next t ∧ t.slot s.sp.toNat = n ∧ SameSlotsBut s.sp.toNat s t ∧
        t.sp.toNat = s.sp.toNat + 1 ∧ t.pc = s.pc + 1#64 ∧ SameControl s t ∧ SameOutput s t) ∧
    (s.sp.toNat = 2048 → exec (.push n) s = .next (faultedAs .stackOverflow s))

/-- R145: DUP k. -/
def Obligations.DupCopiesElementAtDepth : Prop :=
  ∀ (k : Word) (s : State),
    encode (.dup k) = 0x05#8 ++ k ∧
    (k.toNat < s.sp.toNat → s.sp.toNat < 2048 →
      ∃ t, exec (.dup k) s = .next t ∧ t.slot s.sp.toNat = s.slot (s.sp.toNat - 1 - k.toNat) ∧
        SameSlotsBut s.sp.toNat s t ∧ t.sp.toNat = s.sp.toNat + 1 ∧ t.pc = s.pc + 1#64 ∧ SameControl s t ∧ SameOutput s t) ∧
    (s.sp.toNat ≤ k.toNat → exec (.dup k) s = .next (faultedAs .stackUnderflow s)) ∧
    (k.toNat < s.sp.toNat → s.sp.toNat = 2048 → exec (.dup k) s = .next (faultedAs .stackOverflow s))

/-- R160: ADD. -/
def Obligations.AddWrapsSum : Prop :=
  ∀ s : State,
    encode .add = 0x010000000000000000#72 ∧
    (2 ≤ s.sp.toNat →
      ∃ t r, exec .add s = .next t ∧ ReplacesTopTwo r s t ∧
        r.toNat = ((s.slot (s.sp.toNat - 2)).toNat + (s.slot (s.sp.toNat - 1)).toNat) % 2 ^ 64) ∧
    (s.sp.toNat < 2 → exec .add s = .next (faultedAs .stackUnderflow s))

/-- R161: SUB, the element below the top minus the top. -/
def Obligations.SubWrapsDifference : Prop :=
  ∀ s : State,
    encode .sub = 0x020000000000000000#72 ∧
    (2 ≤ s.sp.toNat →
      ∃ t r, exec .sub s = .next t ∧ ReplacesTopTwo r s t ∧
        (r.toNat : Int) = ((s.slot (s.sp.toNat - 2)).toNat - (s.slot (s.sp.toNat - 1)).toNat : Int) % 2 ^ 64) ∧
    (s.sp.toNat < 2 → exec .sub s = .next (faultedAs .stackUnderflow s))

/-- R162: MUL. -/
def Obligations.MulKeepsLowHalf : Prop :=
  ∀ s : State,
    encode .mul = 0x030000000000000000#72 ∧
    (2 ≤ s.sp.toNat →
      ∃ t r, exec .mul s = .next t ∧ ReplacesTopTwo r s t ∧
        r.toNat = ((s.slot (s.sp.toNat - 2)).toNat * (s.slot (s.sp.toNat - 1)).toNat) % 2 ^ 64) ∧
    (s.sp.toNat < 2 → exec .mul s = .next (faultedAs .stackUnderflow s))

/-- R163, R167: DIV faults when either operand is zero, after the depth check. -/
def Obligations.DivTruncatesOrFaultsOnEitherZero : Prop :=
  ∀ s : State,
    encode .div = 0x040000000000000000#72 ∧
    (2 ≤ s.sp.toNat → s.slot (s.sp.toNat - 2) ≠ 0#64 → s.slot (s.sp.toNat - 1) ≠ 0#64 →
      ∃ t r, exec .div s = .next t ∧ ReplacesTopTwo r s t ∧
        r.toNat = (s.slot (s.sp.toNat - 2)).toNat / (s.slot (s.sp.toNat - 1)).toNat) ∧
    (2 ≤ s.sp.toNat → s.slot (s.sp.toNat - 2) = 0#64 ∨ s.slot (s.sp.toNat - 1) = 0#64 →
      exec .div s = .next (faultedAs .divideByZero s)) ∧
    (s.sp.toNat < 2 → exec .div s = .next (faultedAs .stackUnderflow s))

/-- R220: EQ. -/
def Obligations.EqWritesOneIfEqual : Prop :=
  ∀ s : State,
    encode .eq = 0x090000000000000000#72 ∧
    (2 ≤ s.sp.toNat →
      ∃ t, exec .eq s = .next t ∧
        ReplacesTopTwo (if s.slot (s.sp.toNat - 2) = s.slot (s.sp.toNat - 1) then 1#64 else 0#64) s t) ∧
    (s.sp.toNat < 2 → exec .eq s = .next (faultedAs .stackUnderflow s))

/-- R225: NEQ. -/
def Obligations.NeqWritesOneIfDifferent : Prop :=
  ∀ s : State,
    encode .neq = 0x0D0000000000000000#72 ∧
    (2 ≤ s.sp.toNat →
      ∃ t, exec .neq s = .next t ∧
        ReplacesTopTwo (if s.slot (s.sp.toNat - 2) = s.slot (s.sp.toNat - 1) then 0#64 else 1#64) s t) ∧
    (s.sp.toNat < 2 → exec .neq s = .next (faultedAs .stackUnderflow s))

/-- R180: DUMP emits the sp live elements, bottom first, and changes nothing else but pc and the output port (R45). -/
def Obligations.DumpEmitsLiveStack : Prop :=
  ∀ s : State,
    encode .dump = 0x060000000000000000#72 ∧
    ∃ t vs, exec .dump s = .next t ∧ vs.length = s.sp.toNat ∧ (∀ j, j < s.sp.toNat → vs[j]? = some (s.slot j)) ∧
      t.out = s.out ++ [.dump vs] ∧ t.offered = some (.dump vs) ∧ SameSlots s t ∧ t.sp = s.sp ∧ t.pc = s.pc + 1#64 ∧
      SameControl s t

/-- R185: PRINT emits the top element; a faulting PRINT emits nothing. -/
def Obligations.PrintEmitsTop : Prop :=
  ∀ s : State,
    encode .print = 0x070000000000000000#72 ∧
    (0 < s.sp.toNat →
      ∃ t, exec .print s = .next t ∧ t.out = s.out ++ [.print (s.slot (s.sp.toNat - 1))] ∧
        t.offered = some (.print (s.slot (s.sp.toNat - 1))) ∧ SameSlots s t ∧ t.sp = s.sp ∧ t.pc = s.pc + 1#64 ∧
        SameControl s t) ∧
    (s.sp.toNat = 0 → exec .print s = .next (faultedAs .stackUnderflow s))

/-- R195: JMP n. -/
def Obligations.JmpSetsPcInsideProgram : Prop :=
  ∀ (n : Word) (s : State),
    encode (.jmp n) = 0x08#8 ++ n ∧
    (n.toNat < s.len.toNat →
      ∃ t, exec (.jmp n) s = .next t ∧ t.pc = n ∧ SameSlots s t ∧ t.sp = s.sp ∧ SameControl s t ∧ SameOutput s t) ∧
    (s.len.toNat ≤ n.toNat → exec (.jmp n) s = .next (faultedAs .illegalMemoryAccess s))

/-- R200: JNZ n. The target is checked first, taken or not; the top is popped only when the jump is taken. -/
def Obligations.JnzJumpsAndPopsOnOne : Prop :=
  ∀ (n : Word) (s : State),
    encode (.jnz n) = 0x0A#8 ++ n ∧
    (n.toNat < s.len.toNat → 0 < s.sp.toNat → s.slot (s.sp.toNat - 1) = 1#64 →
      ∃ t, exec (.jnz n) s = .next t ∧ t.pc = n ∧ t.sp.toNat = s.sp.toNat - 1 ∧ SameSlots s t ∧ SameControl s t ∧
        SameOutput s t) ∧
    (n.toNat < s.len.toNat → 0 < s.sp.toNat → s.slot (s.sp.toNat - 1) ≠ 1#64 →
      ∃ t, exec (.jnz n) s = .next t ∧ t.pc = s.pc + 1#64 ∧ t.sp = s.sp ∧ SameSlots s t ∧ SameControl s t ∧
        SameOutput s t) ∧
    (s.len.toNat ≤ n.toNat → exec (.jnz n) s = .next (faultedAs .illegalMemoryAccess s)) ∧
    (n.toNat < s.len.toNat → s.sp.toNat = 0 → exec (.jnz n) s = .next (faultedAs .stackUnderflow s))

/-- R205: HALT pops the exit code, whatever its value, and ends the run in HALTED with pc held. -/
def Obligations.HaltPopsExitCode : Prop :=
  ∀ s : State,
    encode .halt = 0x0B0000000000000000#72 ∧
    (0 < s.sp.toNat →
      ∃ t, exec .halt s = .next t ∧ t.status = .halted ∧ t.exitCode = s.slot (s.sp.toNat - 1) ∧ t.cause = s.cause ∧
        t.pc = s.pc ∧ t.sp.toNat = s.sp.toNat - 1 ∧ SameSlots s t ∧ t.prog = s.prog ∧ t.len = s.len ∧ SameOutput s t) ∧
    (s.sp.toNat = 0 → exec .halt s = .next (faultedAs .stackUnderflow s))

/-- R210: BLIND only advances pc. -/
def Obligations.BlindOnlyAdvancesPc : Prop :=
  ∀ s : State,
    encode .blind = 0x0C0000000000000000#72 ∧
    ∃ t, exec .blind s = .next t ∧ t.pc = s.pc + 1#64 ∧ SameSlots s t ∧ t.sp = s.sp ∧ SameControl s t ∧ SameOutput s t

/-! ### Rules over all instructions -/

/-- R231, R236, R238: the first check that fails, in the fixed order, is the only error reported, and taking it writes STATUS,
CAUSE and EXIT_CODE and nothing else; when every check passes no error is recorded. -/
def Obligations.FirstFailingCheckIsReported : Prop :=
  ∀ (i : Instr) (s : State),
    (∀ c, firstError i s = some c → exec i s = .next { s with status := .faulted, cause := c, exitCode := 202#64 }) ∧
    (firstError i s = none →
      ∃ t, exec i s = .next t ∧ t.cause = s.cause ∧ t.status = (if i = .halt then .halted else s.status))

/-- R190: the router's next pc; an instruction that raises an error writes no pc. -/
def Obligations.RouterPicksNextPc : Prop :=
  ∀ (i : Instr) (s : State), ∃ t, exec i s = .next t ∧
    (firstError i s = none → t.pc = routedPc i s) ∧ (firstError i s ≠ none → t.pc = s.pc)

/-- The column Δsp of the table R115, which never carries sp outside 0 to 2048 (R24). -/
def Obligations.StackDepthFollowsSummary : Prop :=
  ∀ (i : Instr) (s : State), s.sp.toNat ≤ 2048 → ∃ t, exec i s = .next t ∧ t.sp.toNat ≤ 2048 ∧
    (firstError i s = none → t.sp.toNat = routedSp i s) ∧ (firstError i s ≠ none → t.sp = s.sp)

/-- R63: no instruction writes program memory or len, and no load is accepted in RUNNING. That a load not accepted there leaves
the state as it is, is the model's reading (DEDUCED, log entry 11), for a malformed image too (DEDUCED, log entry 10). -/
def Obligations.ProgramIsNeverWrittenByARun : Prop :=
  (∀ (i : Instr) (s t : State), exec i s = .next t → t.prog = s.prog ∧ t.len = s.len) ∧
  ∀ (depth : Word) (s : State), s.status = .running →
    (∀ ws, s.load depth ws = s) ∧ (∀ is, s.loadDirect depth is = s) ∧ ∀ text, s.loadImage depth text = s

/-- R252, R236: only DUMP and PRINT reach the output port; they add at most one event at the end of `out`, and none when they
fault. -/
def Obligations.OnlyDumpAndPrintEmit : Prop :=
  ∀ (i : Instr) (s t : State), exec i s = .next t →
    (i ≠ .dump → i ≠ .print → SameOutput s t) ∧
    (SameOutput s t ∨ ∃ e, t.out = s.out ++ [e] ∧ t.offered = some e ∧ firstError i s = none)

/-- R240, R260: the core leaves RUNNING in three ways only, each with its pc, exit code and CAUSE; while it stays in RUNNING,
CAUSE and EXIT_CODE stay as they are. -/
def Obligations.RunEndsInThreeWays : Prop :=
  ∀ s t : State, s.status = .running → coreStep s = .next t →
    (t.status = .running ∧ t.cause = s.cause ∧ t.exitCode = s.exitCode) ∨
    (t.status = .ended ∧ s.pc = s.len ∧ t.pc = s.len ∧ t.exitCode = 0#64 ∧ t.cause = s.cause) ∨
    (t.status = .halted ∧ s.prog[s.pc.toNat]? = some .halt ∧ t.pc = s.pc ∧ t.exitCode = s.slot (s.sp.toNat - 1) ∧
      t.cause = s.cause) ∨
    (t.status = .faulted ∧ t.exitCode = 202#64 ∧ t.pc = s.pc ∧
      t.cause ∈ [Cause.stackOverflow, .stackUnderflow, .divideByZero, .illegalMemoryAccess])

/-! ### Invariants -/

/-- The invariant holds right after reset, for every PROG_DEPTH. -/
def Obligations.ResetSatisfiesInvariant : Prop := ∀ depth : Word, Inv depth State.reset

/-- R53: every step keeps the invariant, from every state that has it. -/
def Obligations.StepKeepsInvariant : Prop :=
  ∀ (depth : Word) (s t : State), Inv depth s → step s = .next t → Inv depth t

/-- R53: the core's own step, which waits for the host, and every host action keep the invariant. -/
def Obligations.HostActionsKeepInvariant : Prop :=
  ∀ (depth : Word) (s : State), Inv depth s →
    (∀ t, coreStep s = .next t → Inv depth t) ∧ ∀ a : HostAction, Inv depth (hostAct depth a s)

/-- R24, R51, R53: in every reachable state, however the host acts, the invariant holds and neither the core's step nor the
machine's step ever faults or is refused. Outside RUNNING the step answers the same state (DEDUCED, log entry 2). -/
def Obligations.ReachableStatesNeverFault : Prop :=
  ∀ (depth : Word) (s : State), Reachable depth s →
    Inv depth s ∧ (∃ t, coreStep s = .next t) ∧ ∃ t, step s = .next t ∧ Reachable depth t

/-- R35, R53: `out` only grows, except that reset empties it. -/
def Obligations.OutputTraceOnlyGrows : Prop :=
  (∀ s t : State, step s = .next t → s.out <+: t.out) ∧ (∀ s t : State, coreStep s = .next t → s.out <+: t.out) ∧
  ∀ (depth : Word) (a : HostAction) (s : State), a ≠ .reset → (hostAct depth a s).out = s.out

/-- R25: stale slots cannot be observed. Two states that differ at most in slots at or above sp stay so along every run, fault
together, and show the host the same status port and the same end of run. -/
def Obligations.StaleSlotsAreUnobservable : Prop :=
  ∀ s t : State, AgreeOnLive s t →
    (∀ n, OutcomesAgree (core.run n s) (core.run n t)) ∧ s.statusPort = t.statusPort ∧ s.observe = t.observe

/-! ### What the host reads -/

/-- R30, R31, R46: the status port is readable exactly outside RUNNING and shows the codes of STATUS and CAUSE, EXIT_CODE, pc,
len, sp and the live elements, bottom first. -/
def Obligations.StatusPortShowsState : Prop :=
  ∀ s : State,
    (s.status = .running → s.statusPort = none) ∧
    (s.status ≠ .running → ∃ v, s.statusPort = some v ∧ v.exitCode = s.exitCode ∧ v.pc = s.pc ∧ v.len = s.len ∧ v.sp = s.sp ∧
      v.live.length = s.sp.toNat ∧ (∀ j, j < s.sp.toNat → v.live[j]? = some (s.slot j)) ∧
      (s.status = .idle → v.status = 0#3) ∧ (s.status = .ended → v.status = 2#3) ∧ (s.status = .halted → v.status = 3#3) ∧
      (s.status = .faulted → v.status = 4#3) ∧ (s.status = .loadFaulted → v.status = 5#3) ∧
      (s.cause = .none → v.cause = 0#4) ∧ (s.cause = .stackOverflow → v.cause = 1#4) ∧
      (s.cause = .stackUnderflow → v.cause = 2#4) ∧ (s.cause = .divideByZero → v.cause = 3#4) ∧
      (s.cause = .illegalMemoryAccess → v.cause = 4#4) ∧ (s.cause = .illegalOpcode → v.cause = 8#4) ∧
      (s.cause = .malformedImage → v.cause = 9#4) ∧ (s.cause = .programFull → v.cause = 10#4))

/-- R245: the code of each end state, and the process exit status of the three whose code is fixed. How the host narrows a
HALT code is left open and is not claimed. -/
def Obligations.HostExitCodeByStatus : Prop :=
  ∀ s : State,
    (s.status = .loadFaulted → s.endCode = some 101#64 ∧ s.processExit = some 101) ∧
    (s.status = .faulted → s.endCode = some 202#64 ∧ s.processExit = some 202) ∧
    (s.status = .halted → s.endCode = some s.exitCode) ∧
    (s.status = .ended → s.endCode = some 0#64 ∧ s.processExit = some 0)

/-- D8 and D14 of 92_eei_decisions.md: the words of a batch sent one a transfer, the last marked, are the batch received, and
what follows is left for the next batch; a Dump event is its header, which carries the count, then its elements. -/
def Obligations.SignalFormCarriesBatchesAndEvents : Prop :=
  (∀ (ws : List InsnWord) (w : InsnWord) (rest : List LoadTransfer),
    firstBatch (ws.map (fun v => ⟨v, false, false⟩) ++ ⟨w, true, false⟩ :: rest) = some (ws ++ [w], rest)) ∧
  (∀ (w : InsnWord) (rest : List LoadTransfer), firstBatch (⟨w, true, true⟩ :: rest) = some ([], rest)) ∧
  ∀ vs : List Word, (OutEvent.dump vs).transfers.length = vs.length + 1 ∧
    (OutEvent.dump vs).transfers.head? = some ⟨.dumpHeader, BitVec.ofNat 64 vs.length⟩ ∧
    ∀ j, j < vs.length → (OutEvent.dump vs).transfers[j + 1]? = vs[j]?.map fun v => ⟨.dumpElement, v⟩
end

