-- ==== Sys2Proof/Laws/State.lean ====
section
/-! SUPPORT. One lemma for each field of the state under each update of it, so that no later proof unfolds a record update. -/

namespace Sys2Proof.Machine

/-! ### setSlot -/

@[simp] theorem State.setSlot_stack (s : State) (i : Nat) (v : Word) : (s.setSlot i v).stack = Memory.write s.stack i v := rfl
@[simp] theorem State.setSlot_sp (s : State) (i : Nat) (v : Word) : (s.setSlot i v).sp = s.sp := rfl
@[simp] theorem State.setSlot_pc (s : State) (i : Nat) (v : Word) : (s.setSlot i v).pc = s.pc := rfl
@[simp] theorem State.setSlot_prog (s : State) (i : Nat) (v : Word) : (s.setSlot i v).prog = s.prog := rfl
@[simp] theorem State.setSlot_len (s : State) (i : Nat) (v : Word) : (s.setSlot i v).len = s.len := rfl
@[simp] theorem State.setSlot_status (s : State) (i : Nat) (v : Word) : (s.setSlot i v).status = s.status := rfl
@[simp] theorem State.setSlot_cause (s : State) (i : Nat) (v : Word) : (s.setSlot i v).cause = s.cause := rfl
@[simp] theorem State.setSlot_exitCode (s : State) (i : Nat) (v : Word) : (s.setSlot i v).exitCode = s.exitCode := rfl
@[simp] theorem State.setSlot_out (s : State) (i : Nat) (v : Word) : (s.setSlot i v).out = s.out := rfl
@[simp] theorem State.setSlot_offered (s : State) (i : Nat) (v : Word) : (s.setSlot i v).offered = s.offered := rfl

/-! ### replaceTop2 -/

@[simp] theorem State.replaceTop2_stack (s : State) (v : Word) : (s.replaceTop2 v).stack = Memory.write s.stack (s.sp.toNat - 2) v := rfl
@[simp] theorem State.replaceTop2_sp (s : State) (v : Word) : (s.replaceTop2 v).sp = s.sp - 1#12 := rfl
@[simp] theorem State.replaceTop2_pc (s : State) (v : Word) : (s.replaceTop2 v).pc = s.pc := rfl
@[simp] theorem State.replaceTop2_prog (s : State) (v : Word) : (s.replaceTop2 v).prog = s.prog := rfl
@[simp] theorem State.replaceTop2_len (s : State) (v : Word) : (s.replaceTop2 v).len = s.len := rfl
@[simp] theorem State.replaceTop2_status (s : State) (v : Word) : (s.replaceTop2 v).status = s.status := rfl
@[simp] theorem State.replaceTop2_cause (s : State) (v : Word) : (s.replaceTop2 v).cause = s.cause := rfl
@[simp] theorem State.replaceTop2_exitCode (s : State) (v : Word) : (s.replaceTop2 v).exitCode = s.exitCode := rfl
@[simp] theorem State.replaceTop2_out (s : State) (v : Word) : (s.replaceTop2 v).out = s.out := rfl
@[simp] theorem State.replaceTop2_offered (s : State) (v : Word) : (s.replaceTop2 v).offered = s.offered := rfl

/-! ### advance -/

@[simp] theorem State.advance_stack (s : State) : s.advance.stack = s.stack := rfl
@[simp] theorem State.advance_sp (s : State) : s.advance.sp = s.sp := rfl
@[simp] theorem State.advance_pc (s : State) : s.advance.pc = s.pc + 1#64 := rfl
@[simp] theorem State.advance_prog (s : State) : s.advance.prog = s.prog := rfl
@[simp] theorem State.advance_len (s : State) : s.advance.len = s.len := rfl
@[simp] theorem State.advance_status (s : State) : s.advance.status = s.status := rfl
@[simp] theorem State.advance_cause (s : State) : s.advance.cause = s.cause := rfl
@[simp] theorem State.advance_exitCode (s : State) : s.advance.exitCode = s.exitCode := rfl
@[simp] theorem State.advance_out (s : State) : s.advance.out = s.out := rfl
@[simp] theorem State.advance_offered (s : State) : s.advance.offered = s.offered := rfl

@[simp] theorem State.advance_slot (s : State) (j : Nat) : s.advance.slot j = s.slot j := rfl

/-! ### jump -/

@[simp] theorem State.jump_stack (s : State) (n : Word) : (s.jump n).stack = s.stack := rfl
@[simp] theorem State.jump_sp (s : State) (n : Word) : (s.jump n).sp = s.sp := rfl
@[simp] theorem State.jump_pc (s : State) (n : Word) : (s.jump n).pc = n := rfl
@[simp] theorem State.jump_prog (s : State) (n : Word) : (s.jump n).prog = s.prog := rfl
@[simp] theorem State.jump_len (s : State) (n : Word) : (s.jump n).len = s.len := rfl
@[simp] theorem State.jump_status (s : State) (n : Word) : (s.jump n).status = s.status := rfl
@[simp] theorem State.jump_cause (s : State) (n : Word) : (s.jump n).cause = s.cause := rfl
@[simp] theorem State.jump_exitCode (s : State) (n : Word) : (s.jump n).exitCode = s.exitCode := rfl
@[simp] theorem State.jump_out (s : State) (n : Word) : (s.jump n).out = s.out := rfl
@[simp] theorem State.jump_offered (s : State) (n : Word) : (s.jump n).offered = s.offered := rfl

@[simp] theorem State.jump_slot (s : State) (n : Word) (j : Nat) : (s.jump n).slot j = s.slot j := rfl

/-! ### takeError -/

@[simp] theorem State.takeError_stack (s : State) (e : RuntimeError) : (s.takeError e).stack = s.stack := rfl
@[simp] theorem State.takeError_sp (s : State) (e : RuntimeError) : (s.takeError e).sp = s.sp := rfl
@[simp] theorem State.takeError_pc (s : State) (e : RuntimeError) : (s.takeError e).pc = s.pc := rfl
@[simp] theorem State.takeError_prog (s : State) (e : RuntimeError) : (s.takeError e).prog = s.prog := rfl
@[simp] theorem State.takeError_len (s : State) (e : RuntimeError) : (s.takeError e).len = s.len := rfl
@[simp] theorem State.takeError_status (s : State) (e : RuntimeError) : (s.takeError e).status = .faulted := rfl
@[simp] theorem State.takeError_cause (s : State) (e : RuntimeError) : (s.takeError e).cause = e.cause := rfl
@[simp] theorem State.takeError_exitCode (s : State) (e : RuntimeError) : (s.takeError e).exitCode = Config.exitRuntime := rfl
@[simp] theorem State.takeError_out (s : State) (e : RuntimeError) : (s.takeError e).out = s.out := rfl
@[simp] theorem State.takeError_offered (s : State) (e : RuntimeError) : (s.takeError e).offered = s.offered := rfl

@[simp] theorem State.takeError_slot (s : State) (e : RuntimeError) (j : Nat) : (s.takeError e).slot j = s.slot j := rfl

/-! ### terminate -/

@[simp] theorem State.terminate_stack (s : State) (k : Status) (c : Word) : (s.terminate k c).stack = s.stack := rfl
@[simp] theorem State.terminate_sp (s : State) (k : Status) (c : Word) : (s.terminate k c).sp = s.sp := rfl
@[simp] theorem State.terminate_pc (s : State) (k : Status) (c : Word) : (s.terminate k c).pc = s.pc := rfl
@[simp] theorem State.terminate_prog (s : State) (k : Status) (c : Word) : (s.terminate k c).prog = s.prog := rfl
@[simp] theorem State.terminate_len (s : State) (k : Status) (c : Word) : (s.terminate k c).len = s.len := rfl
@[simp] theorem State.terminate_status (s : State) (k : Status) (c : Word) : (s.terminate k c).status = k := rfl
@[simp] theorem State.terminate_cause (s : State) (k : Status) (c : Word) : (s.terminate k c).cause = s.cause := rfl
@[simp] theorem State.terminate_exitCode (s : State) (k : Status) (c : Word) : (s.terminate k c).exitCode = c := rfl
@[simp] theorem State.terminate_out (s : State) (k : Status) (c : Word) : (s.terminate k c).out = s.out := rfl
@[simp] theorem State.terminate_offered (s : State) (k : Status) (c : Word) : (s.terminate k c).offered = s.offered := rfl

@[simp] theorem State.terminate_slot (s : State) (k : Status) (c : Word) (j : Nat) : (s.terminate k c).slot j = s.slot j := rfl

/-! ### emit -/

@[simp] theorem State.emit_stack (s : State) (e : OutEvent) : (s.emit e).stack = s.stack := rfl
@[simp] theorem State.emit_sp (s : State) (e : OutEvent) : (s.emit e).sp = s.sp := rfl
@[simp] theorem State.emit_pc (s : State) (e : OutEvent) : (s.emit e).pc = s.pc := rfl
@[simp] theorem State.emit_prog (s : State) (e : OutEvent) : (s.emit e).prog = s.prog := rfl
@[simp] theorem State.emit_len (s : State) (e : OutEvent) : (s.emit e).len = s.len := rfl
@[simp] theorem State.emit_status (s : State) (e : OutEvent) : (s.emit e).status = s.status := rfl
@[simp] theorem State.emit_cause (s : State) (e : OutEvent) : (s.emit e).cause = s.cause := rfl
@[simp] theorem State.emit_exitCode (s : State) (e : OutEvent) : (s.emit e).exitCode = s.exitCode := rfl
@[simp] theorem State.emit_out (s : State) (e : OutEvent) : (s.emit e).out = s.out ++ [e] := rfl
@[simp] theorem State.emit_offered (s : State) (e : OutEvent) : (s.emit e).offered = some e := rfl

@[simp] theorem State.emit_slot (s : State) (e : OutEvent) (j : Nat) : (s.emit e).slot j = s.slot j := rfl

/-! ### acceptOutput -/

@[simp] theorem State.acceptOutput_stack (s : State) : s.acceptOutput.stack = s.stack := rfl
@[simp] theorem State.acceptOutput_sp (s : State) : s.acceptOutput.sp = s.sp := rfl
@[simp] theorem State.acceptOutput_pc (s : State) : s.acceptOutput.pc = s.pc := rfl
@[simp] theorem State.acceptOutput_prog (s : State) : s.acceptOutput.prog = s.prog := rfl
@[simp] theorem State.acceptOutput_len (s : State) : s.acceptOutput.len = s.len := rfl
@[simp] theorem State.acceptOutput_status (s : State) : s.acceptOutput.status = s.status := rfl
@[simp] theorem State.acceptOutput_cause (s : State) : s.acceptOutput.cause = s.cause := rfl
@[simp] theorem State.acceptOutput_exitCode (s : State) : s.acceptOutput.exitCode = s.exitCode := rfl
@[simp] theorem State.acceptOutput_out (s : State) : s.acceptOutput.out = s.out := rfl
@[simp] theorem State.acceptOutput_offered (s : State) : s.acceptOutput.offered = none := rfl

@[simp] theorem State.acceptOutput_slot (s : State) (j : Nat) : s.acceptOutput.slot j = s.slot j := rfl

/-! ### loadFault -/

@[simp] theorem State.loadFault_stack (s : State) (c : Cause) : (s.loadFault c).stack = s.stack := rfl
@[simp] theorem State.loadFault_sp (s : State) (c : Cause) : (s.loadFault c).sp = s.sp := rfl
@[simp] theorem State.loadFault_pc (s : State) (c : Cause) : (s.loadFault c).pc = s.pc := rfl
@[simp] theorem State.loadFault_prog (s : State) (c : Cause) : (s.loadFault c).prog = s.prog := rfl
@[simp] theorem State.loadFault_len (s : State) (c : Cause) : (s.loadFault c).len = s.len := rfl
@[simp] theorem State.loadFault_status (s : State) (c : Cause) : (s.loadFault c).status = .loadFaulted := rfl
@[simp] theorem State.loadFault_cause (s : State) (c : Cause) : (s.loadFault c).cause = c := rfl
@[simp] theorem State.loadFault_exitCode (s : State) (c : Cause) : (s.loadFault c).exitCode = Config.exitLoad := rfl
@[simp] theorem State.loadFault_out (s : State) (c : Cause) : (s.loadFault c).out = s.out := rfl
@[simp] theorem State.loadFault_offered (s : State) (c : Cause) : (s.loadFault c).offered = s.offered := rfl

@[simp] theorem State.loadFault_slot (s : State) (c : Cause) (j : Nat) : (s.loadFault c).slot j = s.slot j := rfl

end Sys2Proof.Machine
end

