-- ==== Sys2Proof/Laws/Memory.lean ====
section
/-! SUPPORT. The laws of the stack's storage: a read after a write, and the canonical form that every operation keeps. -/

namespace Sys2Proof.Machine

theorem Memory.read_insert (m : Memory) (i j : Nat) (v : Word) :
    Memory.read (m.insert i v) j = if i = j then v else Memory.read m j := by
  induction m with
  | nil => simp [Memory.insert, Memory.read]
  | cons c rest ih =>
    obtain ⟨k, u⟩ := c
    simp only [Memory.insert]
    split_ifs with h1 h2 hij hij <;> simp only [Memory.read, ih]
    all_goals grind

theorem Memory.read_erase (m : Memory) (i j : Nat) :
    Memory.read (m.erase i) j = if i = j then 0#64 else Memory.read m j := by
  induction m with
  | nil => simp [Memory.erase, Memory.read]
  | cons c rest ih =>
    obtain ⟨k, u⟩ := c
    simp only [Memory.erase] at ih ⊢
    by_cases hk : k = i
    · subst hk
      simp only [List.filter_cons, bne_self_eq_false, Bool.false_eq_true, if_false, ih, Memory.read]
      grind
    · simp only [List.filter_cons, bne_iff_ne, ne_eq, hk, not_false_eq_true, if_true, ih, Memory.read]
      grind

/-- What a slot reads as after a write. -/
theorem Memory.read_write (m : Memory) (i j : Nat) (v : Word) :
    Memory.read (m.write i v) j = if i = j then v else Memory.read m j := by
  unfold Memory.write
  split_ifs with h0 hij <;> simp_all [Memory.read_insert, Memory.read_erase]

theorem Memory.wfFrom_mono {lo hi : Nat} (h : lo ≤ hi) (m : Memory) (hm : Memory.wfFrom hi m = true) :
    Memory.wfFrom lo m = true := by
  cases m with
  | nil => rfl
  | cons c rest =>
    obtain ⟨k, u⟩ := c
    simp only [Memory.wfFrom, Bool.and_eq_true, decide_eq_true_eq] at hm ⊢
    exact ⟨⟨⟨by omega, hm.1.1.2⟩, hm.1.2⟩, hm.2⟩

theorem Memory.wfFrom_insert (m : Memory) (lo i : Nat) (v : Word) (hm : Memory.wfFrom lo m = true) (hlo : lo ≤ i)
    (hi : i < Config.stackDepth) (hv : v ≠ 0#64) : Memory.wfFrom lo (m.insert i v) = true := by
  induction m generalizing lo with
  | nil => simp [Memory.insert, Memory.wfFrom, hlo, hi, hv]
  | cons c rest ih =>
    obtain ⟨k, u⟩ := c
    simp only [Memory.wfFrom, Bool.and_eq_true, decide_eq_true_eq] at hm
    obtain ⟨⟨⟨h1, h2⟩, h3⟩, h4⟩ := hm
    simp only [Memory.insert]
    split_ifs with hlt heq
    · simp only [Memory.wfFrom, Bool.and_eq_true, decide_eq_true_eq]
      exact ⟨⟨⟨hlo, hi⟩, by simp [hv]⟩, ⟨⟨by omega, h2⟩, h3⟩, h4⟩
    · subst heq
      simp only [Memory.wfFrom, Bool.and_eq_true, decide_eq_true_eq]
      exact ⟨⟨⟨hlo, hi⟩, by simp [hv]⟩, h4⟩
    · simp only [Memory.wfFrom, Bool.and_eq_true, decide_eq_true_eq]
      exact ⟨⟨⟨h1, h2⟩, h3⟩, ih (k + 1) h4 (by omega)⟩

theorem Memory.wfFrom_erase (m : Memory) (lo i : Nat) (hm : Memory.wfFrom lo m = true) :
    Memory.wfFrom lo (m.erase i) = true := by
  induction m generalizing lo with
  | nil => rfl
  | cons c rest ih =>
    obtain ⟨k, u⟩ := c
    simp only [Memory.wfFrom, Bool.and_eq_true, decide_eq_true_eq] at hm
    obtain ⟨⟨⟨h1, h2⟩, h3⟩, h4⟩ := hm
    have hrest := ih (k + 1) h4
    by_cases hk : k = i
    · subst hk
      simp only [Memory.erase, List.filter_cons, bne_self_eq_false, Bool.false_eq_true, if_false] at hrest ⊢
      exact Memory.wfFrom_mono (by omega) _ hrest
    · simp only [Memory.erase, List.filter_cons, bne_iff_ne, ne_eq, hk, not_false_eq_true, if_true, Memory.wfFrom,
        Bool.and_eq_true, decide_eq_true_eq] at hrest ⊢
      exact ⟨⟨⟨h1, h2⟩, by simpa using h3⟩, hrest⟩

/-- A write to a slot that exists keeps the canonical form. -/
theorem Memory.wf_write (m : Memory) (i : Nat) (v : Word) (hm : m.wf = true) (hi : i < Config.stackDepth) :
    (m.write i v).wf = true := by
  unfold Memory.write Memory.wf at *
  split_ifs with h0
  · exact Memory.wfFrom_erase m 0 i hm
  · exact Memory.wfFrom_insert m 0 i v hm (Nat.zero_le i) hi h0

/-- The stack's storage is in canonical form right after reset. -/
theorem Memory.wf_reset : State.reset.stack.wf = true := rfl

/-- What a slot of the state reads as after a write to a slot. -/
@[simp] theorem State.slot_setSlot (s : State) (i j : Nat) (v : Word) :
    (s.setSlot i v).slot j = if i = j then v else s.slot j := Memory.read_write s.stack i j v

/-- What a slot reads as after ReplaceTop2. -/
@[simp] theorem State.slot_replaceTop2 (s : State) (j : Nat) (v : Word) :
    (s.replaceTop2 v).slot j = if s.sp.toNat - 2 = j then v else s.slot j := Memory.read_write s.stack _ j v

end Sys2Proof.Machine
end

