-- ==== Sys2Proof/Laws/Ops.lean ====
section
/-! SUPPORT. For each shared operation, what it can do: the lemmas that a proof about an instruction or a step cites instead of
unfolding the operation. -/

namespace Sys2Proof.Machine

/-! ### sp -/

theorem sp_sub_one {x : BitVec 12} (h : x ≠ 0#12) : (x - 1#12).toNat = x.toNat - 1 := by
  have : x.toNat ≠ 0 := fun h0 => h (BitVec.eq_of_toNat_eq (by simpa using h0))
  have := x.isLt
  rw [BitVec.toNat_sub]
  simp
  omega

theorem sp_add_one {x : BitVec 12} (h : x.toNat ≤ 2048) : (x + 1#12).toNat = x.toNat + 1 := by
  rw [BitVec.toNat_add]
  simp
  omega

theorem sp_pos {x : BitVec 12} : x ≠ 0#12 ↔ 0 < x.toNat := by
  constructor
  · intro h
    exact Nat.pos_of_ne_zero fun h0 => h (BitVec.eq_of_toNat_eq (by simpa using h0))
  · rintro h rfl
    simp at h

/-! ### conclude -/

@[simp] theorem conclude_ok (s t : State) : conclude s (.ok t) = .next t := rfl

@[simp] theorem conclude_error (s : State) (e : RuntimeError) : conclude s (.error e) = .next (s.takeError e) := rfl

/-- An instruction that concludes either retires with its rule's state or takes the error its rule raised. -/
theorem conclude_cases (s : State) (r : Except RuntimeError State) (o : Outcome) (h : conclude s r = o) :
    (∃ t, r = .ok t ∧ o = .next t) ∨ ∃ e, r = .error e ∧ o = .next (s.takeError e) := by
  cases r with
  | ok t => exact .inl ⟨t, rfl, h.symm⟩
  | error e => exact .inr ⟨e, rfl, h.symm⟩

/-! ### The stack primitives -/

theorem push_full {s : State} (v : Word) (h : s.sp.toNat = 2048) : s.push v = .error .stackOverflow := by
  simp [State.push, Config.stackDepth, h]

theorem push_ok {s : State} (v : Word) (h : s.sp.toNat ≠ 2048) :
    s.push v = .ok { s.setSlot s.sp.toNat v with sp := s.sp + 1#12 } := by
  simp [State.push, Config.stackDepth, h]

theorem pop_empty {s : State} (h : s.sp.toNat = 0) : s.pop = .error .stackUnderflow := by
  have : s.sp = 0#12 := BitVec.eq_of_toNat_eq (by simpa using h)
  simp [State.pop, this]

theorem pop_ok {s : State} (h : 0 < s.sp.toNat) :
    s.pop = .ok (s.slot (s.sp.toNat - 1), { s with sp := s.sp - 1#12 }) := by
  have hne := sp_pos.mpr h
  simp [State.pop, hne, sp_sub_one hne]

theorem peek_deep {s : State} {k : Word} (h : s.sp.toNat ≤ k.toNat) : s.peek k = .error .stackUnderflow := by
  have hsp := s.sp.isLt
  have : s.sp.setWidth 64 ≤ k := by
    rw [BitVec.le_def, BitVec.toNat_setWidth]
    omega
  simp [State.peek, this]

theorem peek_ok {s : State} {k : Word} (h : k.toNat < s.sp.toNat) :
    s.peek k = .ok (s.slot (s.sp.toNat - 1 - k.toNat)) := by
  have hsp := s.sp.isLt
  have : ¬ s.sp.setWidth 64 ≤ k := by
    rw [BitVec.le_def, BitVec.toNat_setWidth]
    omega
  simp only [State.peek, this, if_false]

theorem top_empty {s : State} (h : s.sp.toNat = 0) : s.top = .error .stackUnderflow := peek_deep (by simp [h])

theorem top_ok {s : State} (h : 0 < s.sp.toNat) : s.top = .ok (s.slot (s.sp.toNat - 1)) := by
  simpa [State.top] using peek_ok (s := s) (k := 0#64) (by simpa using h)

theorem topTwo_short {s : State} (h : s.sp.toNat < 2) : s.topTwo = .error .stackUnderflow := by
  simp [State.topTwo, h]

theorem topTwo_ok {s : State} (h : 2 ≤ s.sp.toNat) :
    s.topTwo = .ok (s.slot (s.sp.toNat - 2), s.slot (s.sp.toNat - 1)) := by
  simp [State.topTwo, Nat.not_lt.mpr h]

/-! ### The jump unit -/

theorem checkTarget_inside {s : State} {n : Word} (h : n.toNat < s.len.toNat) : s.checkTarget n = .ok () := by
  simp [State.checkTarget, BitVec.lt_def, h]

theorem checkTarget_outside {s : State} {n : Word} (h : s.len.toNat ≤ n.toNat) :
    s.checkTarget n = .error (.illegalMemoryAccess n) := by
  simp [State.checkTarget, BitVec.lt_def, Nat.not_lt.mpr h]

/-! ### Binary operations -/

theorem binary_short {f : Word → Word → Except RuntimeError Word} {s : State} (h : s.sp.toNat < 2) :
    binary f s = .next (s.takeError .stackUnderflow) := by
  simp [binary, topTwo_short h, bind, Except.bind]

theorem binary_error {f : Word → Word → Except RuntimeError Word} {s : State} {e : RuntimeError} (h : 2 ≤ s.sp.toNat)
    (hf : f (s.slot (s.sp.toNat - 2)) (s.slot (s.sp.toNat - 1)) = .error e) : binary f s = .next (s.takeError e) := by
  simp [binary, topTwo_ok h, bind, Except.bind, hf]

theorem binary_ok {f : Word → Word → Except RuntimeError Word} {s : State} {r : Word} (h : 2 ≤ s.sp.toNat)
    (hf : f (s.slot (s.sp.toNat - 2)) (s.slot (s.sp.toNat - 1)) = .ok r) :
    binary f s = .next (s.replaceTop2 r).advance := by
  simp [binary, topTwo_ok h, bind, Except.bind, hf, pure, Except.pure]

/-! ### Arithmetic -/

theorem wrap64_toNat (n : Nat) : (wrap64 (n : Int)).toNat = n % 2 ^ 64 := by
  simp [wrap64]

theorem aluAdd_eq (a b : Word) : aluAdd a b = a + b := by
  apply BitVec.eq_of_toNat_eq
  rw [aluAdd, ← Int.natCast_add, wrap64_toNat, BitVec.toNat_add]

theorem aluMul_eq (a b : Word) : aluMul a b = a * b := by
  apply BitVec.eq_of_toNat_eq
  rw [aluMul, ← Int.natCast_mul, wrap64_toNat, BitVec.toNat_mul]

theorem aluSub_eq (a b : Word) : aluSub a b = a - b := by
  have := a.isLt
  have := b.isLt
  apply BitVec.eq_of_toNat_eq
  rw [aluSub, wrap64, BitVec.toNat_ofInt, BitVec.toNat_sub]
  omega

theorem aluDiv_ok {a b : Word} (ha : a ≠ 0#64) (hb : b ≠ 0#64) : aluDiv a b = .ok (BitVec.ofNat 64 (a.toNat / b.toNat)) := by
  simp [aluDiv, ha, hb]

theorem aluDiv_zero {a b : Word} (h : a = 0#64 ∨ b = 0#64) : aluDiv a b = .error .divideByZero := by
  simp only [aluDiv, h, if_true]

/-! ### Fetch and the step -/

/-- A fetch that answers read Prog[pc], with pc below len. -/
theorem fetch_some {s : State} {i : Instr} (h : s.fetch = some i) : s.pc < s.len ∧ s.prog[s.pc.toNat]? = some i := by
  unfold State.fetch at h
  split_ifs at h with hlt
  exact ⟨hlt, h⟩

/-- What the core can do in RUNNING with no event waiting. -/
theorem runOne_cases (s : State) :
    (s.pc = s.len ∧ runOne s = .next s.endRun) ∨
    (s.pc ≠ s.len ∧ 2048 < s.sp.toNat ∧ runOne s = .fault .sizeCursorOutOfRange) ∨
    (s.pc ≠ s.len ∧ s.sp.toNat ≤ 2048 ∧ ∃ i, s.fetch = some i ∧ runOne s = exec i s) ∨
    (s.pc ≠ s.len ∧ s.sp.toNat ≤ 2048 ∧ s.fetch = none ∧ runOne s = .fault .fetchOutsideProgram) := by
  unfold runOne
  by_cases hpc : s.pc = s.len
  · exact .inl ⟨hpc, by simp [hpc]⟩
  · by_cases hsp : 2048 < s.sp.toNat
    · exact .inr (.inl ⟨hpc, hsp, by simp [hpc, Config.stackDepth, hsp]⟩)
    · have hle := Nat.not_lt.mp hsp
      cases hf : s.fetch with
      | none => exact .inr (.inr (.inr ⟨hpc, hle, rfl, by simp [hpc, Config.stackDepth, hsp]⟩))
      | some i => exact .inr (.inr (.inl ⟨hpc, hle, i, rfl, by simp [hpc, Config.stackDepth, hsp]⟩))

/-- Outside RUNNING the core does nothing. -/
theorem coreStep_notRunning {s : State} (h : s.status ≠ .running) : coreStep s = .next s := by
  cases hs : s.status <;> simp_all [coreStep]

/-- While an event waits the core does nothing. -/
theorem coreStep_waiting {s : State} (h : s.offered ≠ none) : coreStep s = .next s := by
  cases hs : s.status <;> cases ho : s.offered <;> simp_all [coreStep]

theorem coreStep_running {s : State} (h : s.status = .running) (ho : s.offered = none) : coreStep s = runOne s := by
  simp [coreStep, h, ho]

theorem step_notRunning {s : State} (h : s.status ≠ .running) : step s = .next s := by
  cases hs : s.status <;> simp_all [step, stepAccepting]

theorem step_running {s : State} (h : s.status = .running) : step s = runOne s.acceptOutput := by
  simp [step, stepAccepting, h, coreStep_running (s := s.acceptOutput) h rfl]

/-! ### The loader -/

theorem appendBatch_full {depth : Word} {is : List Instr} {s : State} (h : depth.toNat < s.len.toNat + is.length) :
    s.appendBatch depth is = s.loadFault .programFull := by
  simp [State.appendBatch, h]

theorem appendBatch_fits {depth : Word} {is : List Instr} {s : State} (h : s.len.toNat + is.length ≤ depth.toNat) :
    s.appendBatch depth is =
      { s with prog := s.prog.take s.len.toNat ++ is, len := s.len + BitVec.ofNat 64 is.length } := by
  simp [State.appendBatch, Nat.not_lt.mpr h]

theorem acceptsLoad_iff (s : State) : s.acceptsLoad = true ↔ s.status = .idle ∨ s.status = .ended := by
  simp [State.acceptsLoad]

/-- What a load can do. -/
theorem load_cases (depth : Word) (ws : List InsnWord) (s : State) :
    (s.acceptsLoad = false ∧ s.load depth ws = s) ∨
    (s.acceptsLoad = true ∧ decodeAll ws = none ∧ s.load depth ws = s.loadFault .illegalOpcode) ∨
    (s.acceptsLoad = true ∧ ∃ is, decodeAll ws = some is ∧ s.load depth ws = s.appendBatch depth is) := by
  unfold State.load
  cases ha : s.acceptsLoad
  · exact .inl ⟨rfl, by simp⟩
  · cases hd : decodeAll ws with
    | none => exact .inr (.inl ⟨rfl, rfl, by simp⟩)
    | some is => exact .inr (.inr ⟨rfl, is, rfl, by simp⟩)

/-- What an image load can do. -/
theorem loadImage_cases (depth : Word) (text : List Byte) (s : State) :
    (s.acceptsLoad = false ∧ s.loadImage depth text = s) ∨
    (s.acceptsLoad = true ∧ readImage text = none ∧ s.loadImage depth text = s.loadFault .malformedImage) ∨
    (s.acceptsLoad = true ∧ ∃ ws, readImage text = some ws ∧ s.loadImage depth text = s.load depth ws) := by
  unfold State.loadImage
  cases ha : s.acceptsLoad
  · exact .inl ⟨rfl, by simp⟩
  · cases hr : readImage text with
    | none => exact .inr (.inl ⟨rfl, rfl, by simp⟩)
    | some ws => exact .inr (.inr ⟨rfl, ws, rfl, by simp⟩)

end Sys2Proof.Machine
end

