-- ==== Sys2Proof/Laws/PerInstr.lean ====
section
/-! SUPPORT. The per-instruction family: the fields of the word that Encode writes (30_encoding.md rules R90, R99). -/

namespace Sys2Proof

/-- Bit `i` of the word `c ++ n`. -/
theorem getLsbD_word (c : BitVec 8) (n : Word) (i : Nat) :
    (c ++ n : InsnWord).getLsbD i = if i < 64 then n.getLsbD i else c.getLsbD (i - 64) := BitVec.getLsbD_append

theorem opcodeField_append (c : BitVec 8) (n : Word) : opcodeField (c ++ n) = c := by
  refine BitVec.eq_of_getLsbD_eq fun i hi => ?_
  rw [opcodeField, BitVec.getLsbD_extractLsb', getLsbD_word]
  simp [hi]

theorem operandField_append (c : BitVec 8) (n : Word) : operandField (c ++ n) = n := by
  refine BitVec.eq_of_getLsbD_eq fun i hi => ?_
  rw [operandField, BitVec.getLsbD_extractLsb', getLsbD_word]
  simp [hi]

end Sys2Proof

/-- The word that Encode writes for `i` holds the kind's code in its opcode field and the operand, or 0, in its operand field,
and it is legal. -/
def Sys2Proof.Laws.EncodesFields.Statement (i : Sys2Proof.Instr) : Prop :=
  Sys2Proof.opcodeField (Sys2Proof.encode i) = Sys2Proof.opcodeOf i ∧
  Sys2Proof.operandField (Sys2Proof.encode i) = Sys2Proof.operandOf i ∧
  Sys2Proof.wordLegal (Sys2Proof.encode i) = true

namespace Sys2Proof.Laws.EncodesFields

theorem of_code {i : Instr} (h : (opcodeOf i).toNat ≤ 13) : Statement i :=
  ⟨opcodeField_append _ _, operandField_append _ _,
    decide_eq_true (show (opcodeField (encode i)).toNat ≤ 13 by rw [encode, opcodeField_append]; exact h)⟩

theorem push (n : Word) : Statement (.push n) := of_code (by simp [opcodeOf])
theorem add : Statement .add := of_code (by decide)
theorem sub : Statement .sub := of_code (by decide)
theorem mul : Statement .mul := of_code (by decide)
theorem div : Statement .div := of_code (by decide)
theorem dup (k : Word) : Statement (.dup k) := of_code (by simp [opcodeOf])
theorem dump : Statement .dump := of_code (by decide)
theorem print : Statement .print := of_code (by decide)
theorem jmp (n : Word) : Statement (.jmp n) := of_code (by simp [opcodeOf])
theorem eq : Statement .eq := of_code (by decide)
theorem jnz (n : Word) : Statement (.jnz n) := of_code (by simp [opcodeOf])
theorem halt : Statement .halt := of_code (by decide)
theorem blind : Statement .blind := of_code (by decide)
theorem neq : Statement .neq := of_code (by decide)

end Sys2Proof.Laws.EncodesFields
end

