-- ==== Sys2Proof/Tests/Slice0.lean ====
section
/-! SUPPORT. Tests. Expected values come from 95_test_vectors.md (the vector's name stands in the comment) or from the word
layouts of 30_encoding.md. A `witness_` theorem shows states and operands that meet the hypotheses of the statement it names,
clause by clause, at the boundary values. -/

namespace Sys2Proof.Tests

open Sys2Proof Sys2Proof.Machine

/-- A RUNNING state with pc = 0, the live elements `vs`, bottom first, and `n` instructions loaded. -/
def running (vs : List Word) (n : Nat) : State :=
  { State.reset with
    stack := (vs.zipIdx.map fun p => (p.2, p.1)).filter fun c => c.2 != 0#64
    sp := BitVec.ofNat 12 vs.length
    prog := List.replicate n .blind
    len := BitVec.ofNat 64 n
    status := .running }

/-- A RUNNING state whose stack holds `n` zeros, with one instruction loaded. -/
def zeros (n : Nat) : State := { running [] 1 with sp := BitVec.ofNat 12 n }

/-- The next state of an outcome. -/
def nextOf : Outcome → Option State
  | .next t => some t
  | .fault _ => none
  | .refused _ => none

/-- What the vectors show of a next state. -/
structure Seen where
  live : List Word
  pc : Word
  status : Status
  cause : Cause
  exitCode : Word
  out : List OutEvent
deriving DecidableEq

/-- What the vectors show of an outcome's next state. -/
def seen (o : Outcome) : Option Seen :=
  (nextOf o).map fun t => ⟨t.live, t.pc, t.status, t.cause, t.exitCode, t.out⟩

/-- B of 95_test_vectors.md, 2^64 - 1. -/
def maxWord : Word := 18446744073709551615#64

/-! ### Decoding and encoding (section 2.1, 2.2; the words written out from R90 and R91) -/

theorem test_decode_stack : decode 0x000000000000000007#72 = .instr (.push 7#64) ∧
    decode 0x00FFFFFFFFFFFFFFFF#72 = .instr (.push maxWord) ∧ decode 0x050000000000000002#72 = .instr (.dup 2#64) := by decide

theorem test_decode_arith : decode 0x010000000000000000#72 = .instr .add ∧ decode 0x020000000000000000#72 = .instr .sub ∧
    decode 0x030000000000000000#72 = .instr .mul ∧ decode 0x040000000000000000#72 = .instr .div := by decide

theorem test_decode_output : decode 0x060000000000000000#72 = .instr .dump ∧
    decode 0x070000000000000000#72 = .instr .print := by decide

theorem test_decode_control : decode 0x080000000000000003#72 = .instr (.jmp 3#64) ∧
    decode 0x0A000000000000000C#72 = .instr (.jnz 12#64) ∧ decode 0x0B0000000000000000#72 = .instr .halt ∧
    decode 0x0C0000000000000000#72 = .instr .blind := by decide

theorem test_decode_compare : decode 0x090000000000000000#72 = .instr .eq ∧
    decode 0x0D0000000000000000#72 = .instr .neq := by decide

/-- T-DEC-4, T-DEC-5: the operand field of a no-operand opcode is ignored. -/
theorem test_decode_ignores : decode 0x01FFFFFFFFFFFFFFFF#72 = .instr .add ∧
    decode 0x0C0000000000000005#72 = .instr .blind := by decide

/-- T-DEC-6 to T-DEC-8. -/
theorem test_decode_illegal : decode 0x0E0000000000000000#72 = .illegalOpcode 14#8 ∧
    decode 0xFF0000000000000000#72 = .illegalOpcode 255#8 ∧ decode 0x800000000000000000#72 = .illegalOpcode 128#8 := by decide

theorem test_encode : encode (.jnz 12#64) = 0x0A000000000000000C#72 ∧ encode .neq = 0x0D0000000000000000#72 := by decide

/-- The opcode table's rows DUP and NEQ, numbered as the table numbers their bits. -/
theorem test_table_word : decodeTableWord 72 0x050000000000000002 = some (.dup 2#64) ∧
    decodeTableWord 72 0x0D0000000000000000 = some .neq ∧ decodeTableWord 72 0x0E0000000000000000 = none := by decide

/-! ### What each check refuses -/

theorem test_wordLegal_refuses : wordLegal 0x0E0000000000000000#72 = false ∧ wordLegal 0x0D0000000000000000#72 = true := by decide

theorem test_imageCharLegal_refuses : imageCharLegal 0x0A#8 = false ∧ imageCharLegal 0x31#8 = true := by decide

/-- T-IMG-3, T-IMG-5. -/
theorem test_imageWellFormed_refuses : imageWellFormed (List.replicate 71 0x30#8) = false ∧
    imageWellFormed (0x0A#8 :: List.replicate 71 0x30#8) = false ∧
    imageWellFormed (List.replicate 72 0x30#8) = true := by decide

theorem test_programFits_refuses : programFits 1#64 [.add, .add] = false ∧ programFits 2#64 [.add, .add] = true := by decide

theorem test_memoryWf_refuses : Memory.wf [(1, 5#64), (0, 5#64)] = false ∧ Memory.wf [(0, 5#64), (0, 6#64)] = false ∧
    Memory.wf [(0, 0#64)] = false ∧ Memory.wf [(2048, 5#64)] = false ∧ Memory.wf [(0, 5#64), (2047, 6#64)] = true := by decide

/-- Writing the value an unlisted slot reads as takes the slot off the list. -/
theorem test_memory_write_zero : Memory.write [(0, 5#64), (3, 6#64)] 3 0#64 = [(0, 5#64)] ∧
    Memory.write [(0, 5#64), (3, 6#64)] 1 9#64 = [(0, 5#64), (1, 9#64), (3, 6#64)] := by decide

/-! ### The instructions (section 3) -/

/-- T-PUSH-2. -/
theorem test_push : seen (exec (.push maxWord) (running [5#64] 1)) =
    some ⟨[5#64, maxWord], 1, .running, .none, 0#64, []⟩ := by decide

/-- T-PUSH-4 and T-PUSH-3, on a stack of zeros. -/
theorem test_push_full : (nextOf (exec (.push 1#64) (zeros 2048))).map (fun t => (t.sp, t.pc, t.cause, t.exitCode)) =
      some (2048#12, 0#64, .stackOverflow, 202#64) ∧
    (nextOf (exec (.push 1#64) (zeros 2047))).map (fun t => (t.sp, t.slot 2047, t.cause)) =
      some (2048#12, 1#64, .none) := by decide

/-- T-DUP-2, T-DUP-3. -/
theorem test_dup : seen (exec (.dup 2#64) (running [10#64, 20#64, 30#64] 1)) =
      some ⟨[10#64, 20#64, 30#64, 10#64], 1, .running, .none, 0#64, []⟩ ∧
    seen (exec (.dup 3#64) (running [10#64, 20#64, 30#64] 1)) =
      some ⟨[10#64, 20#64, 30#64], 0, .faulted, .stackUnderflow, 202#64, []⟩ := by decide

/-- T-DUP-5, T-DUP-6, T-DUP-7. -/
theorem test_dup_checks : (nextOf (exec (.dup maxWord) (running [1#64] 1))).map (·.cause) = some .stackUnderflow ∧
    (nextOf (exec (.dup 0#64) (zeros 2048))).map (·.cause) = some .stackOverflow ∧
    (nextOf (exec (.dup 2048#64) (zeros 2048))).map (·.cause) = some .stackUnderflow := by decide

/-- T-ADD-3, T-ADD-2. -/
theorem test_add : seen (exec .add (running [7#64, 8#64, 9#64] 1)) =
      some ⟨[7#64, 17#64], 1, .running, .none, 0#64, []⟩ ∧
    seen (exec .add (running [maxWord, 1#64] 1)) = some ⟨[0#64], 1, .running, .none, 0#64, []⟩ := by decide

/-- T-ADD-4. -/
theorem test_add_short : seen (exec .add (running [5#64] 1)) =
    some ⟨[5#64], 0, .faulted, .stackUnderflow, 202#64, []⟩ := by decide

/-- T-SUB-1, T-SUB-2. -/
theorem test_sub : seen (exec .sub (running [5#64, 3#64] 1)) = some ⟨[2#64], 1, .running, .none, 0#64, []⟩ ∧
    seen (exec .sub (running [3#64, 5#64] 1)) =
      some ⟨[18446744073709551614#64], 1, .running, .none, 0#64, []⟩ := by decide

/-- T-MUL-1, T-MUL-3. -/
theorem test_mul : seen (exec .mul (running [6#64, 7#64] 1)) = some ⟨[42#64], 1, .running, .none, 0#64, []⟩ ∧
    seen (exec .mul (running [maxWord, maxWord] 1)) = some ⟨[1#64], 1, .running, .none, 0#64, []⟩ := by decide

/-- T-DIV-1, T-DIV-9. -/
theorem test_div : seen (exec .div (running [100#64, 7#64] 1)) = some ⟨[14#64], 1, .running, .none, 0#64, []⟩ ∧
    seen (exec .div (running [maxWord, 1#64] 1)) = some ⟨[maxWord], 1, .running, .none, 0#64, []⟩ := by decide

/-- T-DIV-5, T-DIV-6, T-DIV-8. -/
theorem test_div_zero : seen (exec .div (running [5#64, 0#64] 1)) =
      some ⟨[5#64, 0#64], 0, .faulted, .divideByZero, 202#64, []⟩ ∧
    seen (exec .div (running [0#64, 5#64] 1)) = some ⟨[0#64, 5#64], 0, .faulted, .divideByZero, 202#64, []⟩ ∧
    seen (exec .div (running [0#64] 1)) = some ⟨[0#64], 0, .faulted, .stackUnderflow, 202#64, []⟩ := by decide

/-- T-DUMP-2, T-DUMP-1. -/
theorem test_dump : seen (exec .dump (running [1#64, 2#64, 3#64] 1)) =
      some ⟨[1#64, 2#64, 3#64], 1, .running, .none, 0#64, [.dump [1#64, 2#64, 3#64]]⟩ ∧
    seen (exec .dump (running [] 1)) = some ⟨[], 1, .running, .none, 0#64, [.dump []]⟩ := by decide

/-- T-PRINT-1, T-PRINT-2. -/
theorem test_print : seen (exec .print (running [3#64, 9#64] 1)) =
      some ⟨[3#64, 9#64], 1, .running, .none, 0#64, [.print 9#64]⟩ ∧
    seen (exec .print (running [] 1)) = some ⟨[], 0, .faulted, .stackUnderflow, 202#64, []⟩ := by decide

/-- T-JMP-1, T-JMP-2. -/
theorem test_jmp : seen (exec (.jmp 2#64) (running [] 3)) = some ⟨[], 2, .running, .none, 0#64, []⟩ ∧
    seen (exec (.jmp 3#64) (running [4#64] 3)) = some ⟨[4#64], 0, .faulted, .illegalMemoryAccess, 202#64, []⟩ := by decide

/-- T-JNZ-1, T-JNZ-2, T-JNZ-3. -/
theorem test_jnz : seen (exec (.jnz 3#64) (running [5#64, 1#64] 4)) = some ⟨[5#64], 3, .running, .none, 0#64, []⟩ ∧
    seen (exec (.jnz 3#64) (running [5#64, 0#64] 4)) = some ⟨[5#64, 0#64], 1, .running, .none, 0#64, []⟩ ∧
    seen (exec (.jnz 3#64) (running [5#64, 2#64] 4)) = some ⟨[5#64, 2#64], 1, .running, .none, 0#64, []⟩ := by decide

/-- T-JNZ-4, T-JNZ-6, T-JNZ-7. -/
theorem test_jnz_checks : seen (exec (.jnz 3#64) (running [] 4)) = some ⟨[], 0, .faulted, .stackUnderflow, 202#64, []⟩ ∧
    seen (exec (.jnz 9#64) (running [0#64] 4)) = some ⟨[0#64], 0, .faulted, .illegalMemoryAccess, 202#64, []⟩ ∧
    seen (exec (.jnz 9#64) (running [] 4)) = some ⟨[], 0, .faulted, .illegalMemoryAccess, 202#64, []⟩ := by decide

/-- T-HALT-2, T-HALT-3, T-HALT-6. -/
theorem test_halt : seen (exec .halt (running [1#64, 2#64] 2)) = some ⟨[1#64], 0, .halted, .none, 2#64, []⟩ ∧
    seen (exec .halt (running [] 2)) = some ⟨[], 0, .faulted, .stackUnderflow, 202#64, []⟩ ∧
    seen (exec .halt (running [maxWord] 2)) = some ⟨[], 0, .halted, .none, maxWord, []⟩ := by decide

/-- T-BLIND-1. -/
theorem test_blind : seen (exec .blind (running [4#64] 2)) = some ⟨[4#64], 1, .running, .none, 0#64, []⟩ := by decide

/-- T-EQ-1, T-EQ-3, T-EQ-4. -/
theorem test_eq : seen (exec .eq (running [4#64, 4#64] 1)) = some ⟨[1#64], 1, .running, .none, 0#64, []⟩ ∧
    seen (exec .eq (running [0#64, maxWord] 1)) = some ⟨[0#64], 1, .running, .none, 0#64, []⟩ ∧
    seen (exec .eq (running [4#64] 1)) = some ⟨[4#64], 0, .faulted, .stackUnderflow, 202#64, []⟩ := by decide

/-- T-NEQ-1, T-NEQ-2, T-NEQ-4. -/
theorem test_neq : seen (exec .neq (running [4#64, 5#64] 1)) = some ⟨[1#64], 1, .running, .none, 0#64, []⟩ ∧
    seen (exec .neq (running [4#64, 4#64] 1)) = some ⟨[0#64], 1, .running, .none, 0#64, []⟩ ∧
    seen (exec .neq (running [1#64] 1)) = some ⟨[1#64], 0, .faulted, .stackUnderflow, 202#64, []⟩ := by decide

/-! ### Steps and host actions (sections 2.5, 4) -/

/-- T-STEP-1. -/
theorem test_normal_end : seen (step { running [] 3 with pc := 3#64 }) = some ⟨[], 3, .ended, .none, 0#64, []⟩ := by decide

/-- T-BLIND-2, the step at index 0. -/
theorem test_step_fetches : seen (step (running [] 1)) = some ⟨[], 1, .running, .none, 0#64, []⟩ := by decide

/-- The core waits while an event is offered (R45); the machine's step goes on. -/
theorem test_core_waits : nextOf (coreStep { running [] 1 with offered := some (.print 1#64) }) =
      some { running [] 1 with offered := some (.print 1#64) } ∧
    (nextOf (step { running [] 1 with offered := some (.print 1#64) })).map (·.pc) = some 1#64 := by decide

/-- `push 5` placed after reset runs as the first instruction. -/
theorem test_withFetchWord : (nextOf (step (State.reset.withFetchWord 72 0x000000000000000005))).map (·.live) =
    some [5#64] := by decide

/-- T-LOAD-1, T-LOAD-3. -/
theorem test_load_illegal :
    (State.reset.load 9#64 [0x000000000000000001#72, 0x0E0000000000000000#72]) =
      { State.reset with status := .loadFaulted, cause := .illegalOpcode, exitCode := 101#64 } ∧
    (State.reset.load 2#64 [0x0E0000000000000000#72, 0#72, 0#72]).cause = .illegalOpcode := by decide

/-- T-LOAD-2, T-LOAD-4. -/
theorem test_load_full :
    (let s := (State.reset.load 2#64 [0#72]).load 2#64 [0#72, 0#72]; (s.status, s.cause, s.exitCode, s.len)) =
      (.loadFaulted, .programFull, 101#64, 1#64) ∧
    State.reset.load 2#64 [] = State.reset := by decide

/-- T-LOAD-7, T-LOAD-8. -/
theorem test_terminal_refuses : hostAct 9#64 (.load [0#72]) { running [] 1 with status := .halted } =
      { running [] 1 with status := .halted } ∧
    hostAct 9#64 .run { running [] 1 with status := .halted } = { running [] 1 with status := .halted } := by decide

/-- T-LOAD-6 (an image of 71 characters). -/
theorem test_loadImage_malformed : (let s := State.reset.loadImage 9#64 (List.replicate 71 0x30#8);
    (s.status, s.cause, s.exitCode, s.len)) = (.loadFaulted, .malformedImage, 101#64, 0#64) := by decide

/-- The image of W7: `push 7; halt`. -/
theorem test_image : readImage (writeImage [.push 7#64, .halt]) = some [0x000000000000000007#72, 0x0B0000000000000000#72] ∧
    (writeImage [.push 7#64, .halt]).drop 69 =
      [0x31#8, 0x31#8, 0x31#8, 0x30#8, 0x30#8, 0x30#8, 0x30#8, 0x31#8, 0x30#8, 0x31#8, 0x31#8] ++ List.replicate 64 0x30#8 := by
  decide +kernel

/-- T-ASM-2, T-ASM-5, T-ASM-6, T-ASM-7, T-ASM-10. -/
theorem test_assemble : assemble "PUSH 7".toList = .syntaxError 0 ∧
    assemble "push 18446744073709551616".toList = .syntaxError 0 ∧
    assemble "push 18446744073709551615".toList = .program [.push maxWord] ∧ assemble "add 5".toList = .program [.add] ∧
    assemble "push 007".toList = .program [.push 7#64] := by decide +kernel

/-- T-ASM-9, T-ASM-11, T-ASM-12. -/
theorem test_assemble_lines : assemble "\n\npush 1\nfoo".toList = .syntaxError 3 ∧
    assemble "push +7".toList = .syntaxError 0 ∧
    assemble "   \npush 1\n\nhalt".toList = .program [.push 1#64, .halt] := by decide +kernel

/-! ### Witnesses -/

theorem witness_OperandFieldIgnored : (1#8 : BitVec 8) ∈ [1#8, 2#8, 3#8, 4#8, 6#8, 7#8, 9#8, 11#8, 12#8, 13#8] ∧
    (13#8 : BitVec 8) ∈ [1#8, 2#8, 3#8, 4#8, 6#8, 7#8, 9#8, 11#8, 12#8, 13#8] := by decide

theorem witness_DecodeFollowsOpcodeMap : 14 ≤ (14#8 : BitVec 8).toNat ∧ 14 ≤ (255#8 : BitVec 8).toNat := by decide

theorem witness_DecodeLosesOnlyIgnoredBits : decode 0x0A000000000000000C#72 = .instr (.jnz 12#64) ∧
    opcodeField 0x0A000000000000000C#72 ∈ [0#8, 5#8, 8#8, 10#8] := by decide

theorem witness_ImageIsRecordsInOrder : [Instr.push 7#64, .halt][0]? = some (.push 7#64) ∧
    [Instr.push 7#64, .halt][1]? = some .halt ∧ 0 < 72 ∧ 71 < 72 := by decide

theorem witness_ReadImageFailsOrYieldsWords : readImage (List.replicate 72 0x30#8) = some [0#72] ∧
    [(0#72 : InsnWord)][0]? = some 0#72 ∧ readImage [] = some [] := by decide +kernel

theorem witness_ChunkedReaderAgrees : (List.replicate 72 true).length = 72 := by decide

theorem witness_MnemonicsSelectInstructions : parseOperand "7".toList = some 7#64 ∧ parseOperand "-1".toList = none ∧
    "push".toList ∈ ["push".toList, "dup".toList, "jmp".toList, "jnz".toList] ∧
    "foo".toList ∉ ["push".toList, "add".toList, "sub".toList, "mul".toList, "div".toList, "dup".toList, "dump".toList,
      "print".toList, "jmp".toList, "eq".toList, "jnz".toList, "halt".toList, "blind".toList, "neq".toList] := by
  decide +kernel

theorem witness_FirstBadLineIsReported : assemble "foo".toList = .syntaxError 0 ∧
    assemble "add\n\nfoo".toList = .syntaxError 2 := by decide +kernel

theorem witness_ResetRestoresResetValues : ∃ r : State, r = hostAct 0#64 .reset (running [7#64] 1) ∨ r = State.reset :=
  ⟨State.reset, .inr rfl⟩

theorem witness_LoadAppendsWholeBatchOrNothing :
    -- not accepted
    (running [] 1).status ≠ .idle ∧ (running [] 1).status ≠ .ended ∧
    -- an illegal word
    State.reset.status = .idle ∧ decode 0x0E0000000000000000#72 = .illegalOpcode 14#8 ∧
    -- one word too many, and a batch that fills program memory
    [0x010000000000000000#72, 0x020000000000000000#72].map decode = [Instr.add, .sub].map Decoded.instr ∧
    (1#64 : Word).toNat < State.reset.len.toNat + 2 ∧ State.reset.len.toNat + 2 ≤ (2#64 : Word).toNat ∧
    State.reset.prog.length = State.reset.len.toNat := by decide

theorem witness_LoadDirectMatchesLoad : (State.reset.loadDirect 0#64 [.add]).status ≠ State.reset.status := by decide

theorem test_inv_reset : Inv 2#64 State.reset where
  sp_le := by decide
  pc_le := by decide
  len_le := Nat.zero_le _
  prog_length := rfl
  stack_wf := rfl
  dump_length := by intro vs h; cases h
  offered_last := by intro e h; cases h
  registers := rfl

theorem witness_SuccessiveLoadsConcatenate : Inv 2#64 State.reset ∧ State.reset.status = .idle ∧
    State.reset.len.toNat + [Instr.add].length + [Instr.sub].length ≤ (2#64 : Word).toNat := ⟨test_inv_reset, rfl, by decide⟩

theorem witness_LoadImageReadsThenLoads : State.reset.status = .idle ∧ readImage (List.replicate 71 0x30#8) = none ∧
    readImage (List.replicate 72 0x30#8) = some [0#72] ∧ (running [] 1).status ≠ .idle ∧ (running [] 1).status ≠ .ended := by
  decide +kernel

theorem witness_LoadErrorKeepsTheRest : State.reset.status ≠ .loadFaulted ∧
    (hostAct 9#64 (.load [0x0E0000000000000000#72]) State.reset).status = .loadFaulted ∧
    (hostAct 0#64 (.loadDirect [.add]) State.reset).status = .loadFaulted ∧
    (hostAct 9#64 (.loadImage [0x30#8]) State.reset).status = .loadFaulted := by decide

theorem witness_RunStartsOrResumes : State.reset.status = .idle ∧
    { running [] 1 with status := .ended }.status = .ended ∧ (running [] 1).status ≠ .idle ∧ (running [] 1).status ≠ .ended := by
  decide

theorem witness_TerminalStatusLastsUntilReset : { running [] 1 with status := .halted }.status = .halted ∧
    { running [] 1 with status := .faulted }.status = .faulted ∧
    { running [] 1 with status := .loadFaulted }.status = .loadFaulted ∧
    HostAction.run ≠ .reset ∧ HostAction.run ≠ .accept := by decide

theorem witness_StepRunsTheInstructionAtPc : (running [] 1).status = .running ∧ (zeros 2048).sp.toNat ≤ 2048 ∧
    (running [] 1).sp.toNat ≤ 2048 ∧ (running [] 1).pc < (running [] 1).len ∧ (running [] 1).prog[0]? = some .blind ∧
    (running [] 1).offered = none := by decide

theorem witness_PlacedWordRunsNext : decodeTableWord 72 0x010000000000000000 = some .add ∧
    State.reset.sp.toNat ≤ 2048 ∧ State.reset.pc.toNat ≤ State.reset.prog.length ∧ State.reset.pc.toNat < 2 ^ 64 - 1 := by
  decide

theorem witness_LoadedWordRunsAfterRun : Inv 2#64 State.reset ∧ State.reset.status = .idle ∧
    State.reset.pc = State.reset.len ∧ State.reset.len.toNat < (2#64 : Word).toNat ∧
    decode 0x010000000000000000#72 = .instr .add := ⟨test_inv_reset, rfl, rfl, by decide, by decide⟩

theorem witness_NormalEndBeforeAnyFetch : (running [] 0).status = .running ∧ (running [] 0).offered = none ∧
    (running [] 0).pc = (running [] 0).len := by decide

theorem witness_CoreWaitsForAcceptance : { running [] 1 with offered := some (.print 1#64) }.status = .running ∧
    { running [] 1 with offered := some (.print 1#64) }.offered = some (.print 1#64) := by decide

theorem witness_NothingExecutesOutsideRunning : State.reset.status ≠ .running := by decide

theorem witness_PushPushesImmediate : (zeros 0).sp.toNat < 2048 ∧ (zeros 2047).sp.toNat < 2048 ∧
    (zeros 2048).sp.toNat = 2048 := by decide

theorem witness_DupCopiesElementAtDepth :
    (0#64 : Word).toNat < (zeros 1).sp.toNat ∧ (2046#64 : Word).toNat < (zeros 2047).sp.toNat ∧ (zeros 2047).sp.toNat < 2048 ∧
    (zeros 2047).sp.toNat ≤ (2047#64 : Word).toNat ∧ (zeros 2048).sp.toNat ≤ maxWord.toNat ∧
    (2047#64 : Word).toNat < (zeros 2048).sp.toNat ∧ (zeros 2048).sp.toNat = 2048 := by decide

/-- For ADD, SUB, MUL, EQ and NEQ: the depth at and below 2. -/
theorem witness_binary_depth : 2 ≤ (zeros 2).sp.toNat ∧ 2 ≤ (zeros 2048).sp.toNat ∧ (zeros 1).sp.toNat < 2 ∧
    (zeros 0).sp.toNat < 2 := by decide

theorem witness_DivTruncatesOrFaultsOnEitherZero :
    2 ≤ (running [7#64, 2#64] 1).sp.toNat ∧ (running [7#64, 2#64] 1).slot 0 ≠ 0#64 ∧ (running [7#64, 2#64] 1).slot 1 ≠ 0#64 ∧
    2 ≤ (running [5#64, 0#64] 1).sp.toNat ∧ (running [5#64, 0#64] 1).slot 1 = 0#64 ∧
    2 ≤ (running [0#64, 5#64] 1).sp.toNat ∧ (running [0#64, 5#64] 1).slot 0 = 0#64 ∧ (running [0#64] 1).sp.toNat < 2 := by decide

theorem witness_PrintEmitsTop : 0 < (zeros 1).sp.toNat ∧ (zeros 0).sp.toNat = 0 := by decide

theorem witness_HaltPopsExitCode : 0 < (zeros 1).sp.toNat ∧ (zeros 0).sp.toNat = 0 := by decide

theorem witness_JmpSetsPcInsideProgram : (2#64 : Word).toNat < (running [] 3).len.toNat ∧
    (running [] 3).len.toNat ≤ (3#64 : Word).toNat ∧ (running [] 3).len.toNat ≤ maxWord.toNat := by decide

theorem witness_JnzJumpsAndPopsOnOne :
    (3#64 : Word).toNat < (running [1#64] 4).len.toNat ∧ 0 < (running [1#64] 4).sp.toNat ∧ (running [1#64] 4).slot 0 = 1#64 ∧
    0 < (running [2#64] 4).sp.toNat ∧ (running [2#64] 4).slot 0 ≠ 1#64 ∧
    (running [1#64] 4).len.toNat ≤ (4#64 : Word).toNat ∧ (running [] 4).sp.toNat = 0 := by decide

/-- One instruction and state for each way a check fails, and one for which none does. -/
theorem witness_firstError : firstError (.jnz 9#64) (running [] 4) = some .illegalMemoryAccess ∧
    firstError (.dup 2048#64) (zeros 2048) = some .stackUnderflow ∧ firstError (.dup 0#64) (zeros 2048) = some .stackOverflow ∧
    firstError .div (running [0#64, 5#64] 1) = some .divideByZero ∧ firstError .div (running [6#64, 5#64] 1) = none ∧
    firstError .halt (running [6#64] 1) = none := by decide

theorem witness_StackDepthFollowsSummary : (zeros 2048).sp.toNat ≤ 2048 := by decide

theorem witness_ProgramIsNeverWrittenByARun : nextOf (exec .add (running [1#64, 2#64] 1)) ≠ none ∧
    (running [] 1).status = .running := by decide

theorem witness_OnlyDumpAndPrintEmit : nextOf (exec .print (running [1#64] 1)) ≠ none ∧
    nextOf (exec .add (running [1#64, 2#64] 1)) ≠ none ∧ Instr.add ≠ .dump ∧ Instr.add ≠ .print := by decide

/-- One step for each of the four ways. -/
theorem witness_RunEndsInThreeWays : (running [] 1).status = .running ∧
    (nextOf (coreStep (running [] 1))).map (·.status) = some .running ∧
    (nextOf (coreStep (running [] 0))).map (·.status) = some .ended ∧
    (nextOf (coreStep { running [7#64] 1 with prog := [.halt] })).map (·.status) = some .halted ∧
    (nextOf (coreStep { running [] 1 with prog := [.add] })).map (·.status) = some .faulted := by decide

/-- The state right after `push 7; print; …`: RUNNING, in the middle of a program, an event offered. -/
def middle : State :=
  { State.reset with
    stack := [(0, 7#64)]
    sp := 1#12
    pc := 2#64
    prog := [.push 7#64, .print, .halt]
    len := 3#64
    status := .running
    out := [.print 7#64]
    offered := some (.print 7#64) }

theorem witness_StepKeepsInvariant : Inv 3#64 middle ∧ (nextOf (step middle)).map (·.status) = some .halted := by
  refine ⟨⟨by decide, by decide, by decide, by decide, by decide, ?_, ?_, by decide⟩, by decide⟩
  · intro vs h
    simp [middle] at h
  · intro e h
    simpa [middle] using h

theorem witness_HostActionsKeepInvariant : Inv 2#64 State.reset ∧ nextOf (coreStep State.reset) = some State.reset :=
  ⟨test_inv_reset, by decide⟩

theorem witness_ReachableStatesNeverFault : Reachable 1#64 State.reset ∧
    Reachable 1#64 (hostAct 1#64 .run State.reset) := ⟨.reset, .host .run .reset⟩

theorem witness_OutputTraceOnlyGrows : (nextOf (step middle)).map (·.out) = some [.print 7#64] ∧
    (nextOf (coreStep (running [] 1))).map (·.out) = some [] ∧ HostAction.run ≠ .reset := by decide

/-- Two different states that differ in the stale slot 1 only. -/
theorem witness_StaleSlotsAreUnobservable : AgreeOnLive middle { middle with stack := [(0, 7#64), (1, 9#64)] } ∧
    middle ≠ { middle with stack := [(0, 7#64), (1, 9#64)] } := by
  refine ⟨⟨rfl, ?_⟩, by decide⟩
  intro j hj
  have : j = 0 := by simpa [middle] using hj
  subst this
  rfl

theorem witness_StatusPortShowsState : (running [] 1).status = .running ∧ State.reset.status = .idle ∧
    State.reset.cause = .none ∧ { State.reset with status := .faulted, cause := .divideByZero }.status = .faulted ∧
    { State.reset with status := .faulted, cause := .divideByZero }.cause = .divideByZero := by decide

theorem witness_HostExitCodeByStatus : { State.reset with status := .loadFaulted }.status = .loadFaulted ∧
    { State.reset with status := .faulted }.status = .faulted ∧ { State.reset with status := .halted }.status = .halted ∧
    { State.reset with status := .ended }.status = .ended := by decide

theorem witness_SignalFormCarriesBatchesAndEvents : 0 < [(5#64 : Word)].length := by decide

end Sys2Proof.Tests
end

section
/-! PROOFS. What one instruction does, said once: either the first failing check is taken as the fault state, or the
instruction retires with one of seven effects. The proofs about steps and runs go through these lemmas and split on the seven
effects, not on the 14 instructions. -/

namespace Sys2Proof.Machine

/-! ### The monad of the meanings -/

@[simp] theorem ok_bind {α β : Type} (a : α) (f : α → Except RuntimeError β) : (Except.ok a >>= f) = f a := rfl

@[simp] theorem error_bind {α β : Type} (e : RuntimeError) (f : α → Except RuntimeError β) :
    (Except.error e >>= f) = .error e := rfl

@[simp] theorem pure_eq_ok {α : Type} (a : α) : (pure a : Except RuntimeError α) = .ok a := rfl

/-! ### The effects -/

/-- What an instruction whose checks pass does to the state. -/
inductive Effect where
  /-- Pushes `v` and goes on (PUSH, DUP). -/
  | push (v : Word)
  /-- Puts `v` in the place of the two top elements and goes on (the binary operations). -/
  | replaceTop2 (v : Word)
  /-- Goes on (BLIND, a JNZ not taken). -/
  | advance
  /-- Jumps to `n` (JMP). -/
  | jump (n : Word)
  /-- Pops the top and jumps to `n` (a JNZ taken). -/
  | popJump (n : Word)
  /-- Emits `e` and goes on (DUMP, PRINT). -/
  | emit (e : OutEvent)
  /-- Pops the top and ends the run with `code` (HALT). -/
  | halt (code : Word)

/-- The state an effect gives. -/
def Effect.apply : Effect → State → State
  | .push v, s => { s.setSlot s.sp.toNat v with sp := s.sp + 1#12 }.advance
  | .replaceTop2 v, s => (s.replaceTop2 v).advance
  | .advance, s => s.advance
  | .jump n, s => s.jump n
  | .popJump n, s => { s with sp := s.sp - 1#12 }.jump n
  | .emit e, s => (s.emit e).advance
  | .halt code, s => { s with sp := s.sp - 1#12 }.terminate .halted code

/-- What the checks of an instruction guarantee about its effect. -/
def Effect.Fits : Effect → State → Prop
  | .push _, s => s.sp.toNat ≠ 2048
  | .replaceTop2 _, s => 2 ≤ s.sp.toNat
  | .advance, _ => True
  | .jump n, s => n.toNat < s.len.toNat
  | .popJump n, s => 0 < s.sp.toNat ∧ n.toNat < s.len.toNat
  | .emit e, s => ∀ vs, e = .dump vs → vs = s.live
  | .halt _, s => 0 < s.sp.toNat

/-- The effect of an instruction whose checks pass. -/
def effectOf (i : Instr) (s : State) : Effect :=
  match i with
  | .push n => .push n
  | .dup k => .push (s.slot (s.sp.toNat - 1 - k.toNat))
  | .add => .replaceTop2 (aluAdd (s.slot (s.sp.toNat - 2)) (s.slot (s.sp.toNat - 1)))
  | .sub => .replaceTop2 (aluSub (s.slot (s.sp.toNat - 2)) (s.slot (s.sp.toNat - 1)))
  | .mul => .replaceTop2 (aluMul (s.slot (s.sp.toNat - 2)) (s.slot (s.sp.toNat - 1)))
  | .div => .replaceTop2 (BitVec.ofNat 64 ((s.slot (s.sp.toNat - 2)).toNat / (s.slot (s.sp.toNat - 1)).toNat))
  | .eq => .replaceTop2 (bool01 (s.slot (s.sp.toNat - 2) == s.slot (s.sp.toNat - 1)))
  | .neq => .replaceTop2 (bool01 (s.slot (s.sp.toNat - 2) != s.slot (s.sp.toNat - 1)))
  | .dump => .emit (.dump s.live)
  | .print => .emit (.print (s.slot (s.sp.toNat - 1)))
  | .jmp n => .jump n
  | .jnz n => if s.slot (s.sp.toNat - 1) = 1#64 then .popJump n else .advance
  | .halt => .halt (s.slot (s.sp.toNat - 1))
  | .blind => .advance

/-! ### The checks -/

theorem firstError_eq_none_iff (i : Instr) (s : State) :
    firstError i s = none ↔
      targetFails i s = false ∧ needDepth i ≤ s.sp.toNat ∧ capacityFails i s = false ∧ valueFails i s = false := by
  unfold firstError
  split_ifs <;> simp_all

/-- A failing check reports one of the four runtime causes (R231). -/
theorem firstError_cause {i : Instr} {s : State} {c : Cause} (h : firstError i s = some c) :
    c = .stackOverflow ∨ c = .stackUnderflow ∨ c = .divideByZero ∨ c = .illegalMemoryAccess := by
  unfold firstError at h
  split_ifs at h <;> simp_all

theorem effectOf_fits {i : Instr} {s : State} (h : firstError i s = none) : (effectOf i s).Fits s := by
  obtain ⟨htarget, hneed, hroom, -⟩ := (firstError_eq_none_iff i s).mp h
  cases i with
  | push | dup => simpa [effectOf, Effect.Fits, capacityFails] using hroom
  | add | sub | mul | div | eq | neq | halt => exact hneed
  | dump => exact fun vs hvs => by cases hvs; rfl
  | print => exact fun vs hvs => by cases hvs
  | jmp n => simpa [effectOf, Effect.Fits, targetFails] using htarget
  | jnz n =>
    simp only [effectOf]
    split_ifs
    · exact ⟨hneed, by simpa [targetFails] using htarget⟩
    · trivial
  | blind => trivial

/-! ### Every instruction retires with its effect or takes its first error -/

theorem exec_add (s : State) : exec .add s = binary (fun a b => .ok (aluAdd a b)) s := rfl
theorem exec_sub (s : State) : exec .sub s = binary (fun a b => .ok (aluSub a b)) s := rfl
theorem exec_mul (s : State) : exec .mul s = binary (fun a b => .ok (aluMul a b)) s := rfl
theorem exec_div (s : State) : exec .div s = binary aluDiv s := rfl
theorem exec_eq (s : State) : exec .eq s = binary (fun a b => .ok (bool01 (a == b))) s := rfl
theorem exec_neq (s : State) : exec .neq s = binary (fun a b => .ok (bool01 (a != b))) s := rfl

/-- R50: an instruction whose checks all pass retires with its effect. -/
theorem exec_retires {i : Instr} {s : State} (h : firstError i s = none) :
    exec i s = .next ((effectOf i s).apply s) := by
  obtain ⟨htarget, hneed, hroom, hvalue⟩ := (firstError_eq_none_iff i s).mp h
  cases i with
  | push n =>
    have hsp : s.sp.toNat ≠ 2048 := by simpa [capacityFails] using hroom
    simp [exec, execPush, push_ok n hsp, effectOf, Effect.apply]
  | dup k =>
    have hsp : s.sp.toNat ≠ 2048 := by simpa [capacityFails] using hroom
    simp [exec, execDup, peek_ok hneed, push_ok _ hsp, effectOf, Effect.apply]
  | add | sub | mul | eq | neq =>
    simp only [exec_add, exec_sub, exec_mul, exec_eq, exec_neq]
    exact binary_ok hneed rfl
  | div =>
    obtain ⟨hbelow, htop⟩ : s.slot (s.sp.toNat - 2) ≠ 0#64 ∧ s.slot (s.sp.toNat - 1) ≠ 0#64 := by
      simpa [valueFails] using hvalue
    exact binary_ok hneed (aluDiv_ok hbelow htop)
  | dump | blind => rfl
  | print => simp [exec, execPrint, top_ok hneed, effectOf, Effect.apply]
  | jmp n =>
    have hn : n.toNat < s.len.toNat := by simpa [targetFails] using htarget
    simp [exec, execJmp, checkTarget_inside hn, effectOf, Effect.apply]
  | jnz n =>
    have hn : n.toNat < s.len.toNat := by simpa [targetFails] using htarget
    by_cases htop : s.slot (s.sp.toNat - 1) = 1#64 <;>
      simp [exec, execJnz, checkTarget_inside hn, top_ok hneed, pop_ok hneed, jumpCondition, htop, effectOf, Effect.apply]
  | halt => simp [exec, execHalt, pop_ok hneed, effectOf, Effect.apply]

theorem takeError_eq_faultedAs (e : RuntimeError) (s : State) : s.takeError e = faultedAs e.cause s := rfl

/-- R236, R238: an instruction with a failing check takes the error of the first one, and nothing else changes. -/
theorem exec_faults {i : Instr} {s : State} {c : Cause} (h : firstError i s = some c) :
    exec i s = .next (faultedAs c s) := by
  unfold firstError at h
  split_ifs at h with htarget hneed hroom hvalue <;> cases h
  · cases i with
    | jmp n =>
      have hn : s.len.toNat ≤ n.toNat := by simpa [targetFails] using htarget
      simp [exec, execJmp, checkTarget_outside hn, takeError_eq_faultedAs, RuntimeError.cause]
    | jnz n =>
      have hn : s.len.toNat ≤ n.toNat := by simpa [targetFails] using htarget
      simp [exec, execJnz, checkTarget_outside hn, takeError_eq_faultedAs, RuntimeError.cause]
    | _ => cases htarget
  · cases i with
    | push | dump | jmp | blind => cases hneed
    | add | sub | mul | div | eq | neq =>
      simp only [exec_add, exec_sub, exec_mul, exec_div, exec_eq, exec_neq]
      exact binary_short hneed
    | dup k =>
      have hk : s.sp.toNat ≤ k.toNat := Nat.lt_succ_iff.mp hneed
      simp [exec, execDup, peek_deep hk, takeError_eq_faultedAs, RuntimeError.cause]
    | print =>
      simp [exec, execPrint, top_empty (Nat.lt_one_iff.mp hneed), takeError_eq_faultedAs, RuntimeError.cause]
    | halt =>
      simp [exec, execHalt, pop_empty (Nat.lt_one_iff.mp hneed), takeError_eq_faultedAs, RuntimeError.cause]
    | jnz n =>
      have hn : n.toNat < s.len.toNat := by simpa [targetFails] using htarget
      simp [exec, execJnz, checkTarget_inside hn, top_empty (Nat.lt_one_iff.mp hneed), takeError_eq_faultedAs, RuntimeError.cause]
  · cases i with
    | push n =>
      have hsp : s.sp.toNat = 2048 := by simpa [capacityFails] using hroom
      simp [exec, execPush, push_full n hsp, takeError_eq_faultedAs, RuntimeError.cause]
    | dup k =>
      have hsp : s.sp.toNat = 2048 := by simpa [capacityFails] using hroom
      have hk : k.toNat < s.sp.toNat := Nat.not_lt.mp hneed
      simp [exec, execDup, peek_ok hk, push_full _ hsp, takeError_eq_faultedAs, RuntimeError.cause]
    | _ => cases hroom
  · cases i with
    | div =>
      have hzero : s.slot (s.sp.toNat - 2) = 0#64 ∨ s.slot (s.sp.toNat - 1) = 0#64 := by simpa [valueFails] using hvalue
      exact binary_error (Nat.not_lt.mp hneed) (aluDiv_zero hzero)
    | _ => cases hvalue

/-- All that an instruction can do. -/
theorem exec_cases (i : Instr) (s : State) :
    (firstError i s = none ∧ (effectOf i s).Fits s ∧ exec i s = .next ((effectOf i s).apply s)) ∨
    ∃ c, firstError i s = some c ∧ exec i s = .next (faultedAs c s) := by
  cases h : firstError i s with
  | none => exact .inl ⟨rfl, effectOf_fits h, exec_retires h⟩
  | some c => exact .inr ⟨c, rfl, exec_faults h⟩

end Sys2Proof.Machine
end

section
/-! PROOFS. States that differ at most in stale slots (10_state.md rule R25): every instruction and every step does the same to
both, and the host reads the same of both. -/

namespace Sys2Proof.Machine

theorem agreeOnLive_iff (s t : State) :
    AgreeOnLive s t ↔ ∃ m, t = { s with stack := m } ∧ ∀ j, j < s.sp.toNat → Memory.read m j = s.slot j := by
  constructor
  · rintro ⟨hfields, hslots⟩
    exact ⟨t.stack, hfields, hslots⟩
  · rintro ⟨m, rfl, hslots⟩
    exact ⟨rfl, hslots⟩

section Congruence

variable {s t : State}

theorem AgreeOnLive.sp_eq (h : AgreeOnLive s t) : t.sp = s.sp := by rw [h.1]
theorem AgreeOnLive.pc_eq (h : AgreeOnLive s t) : t.pc = s.pc := by rw [h.1]
theorem AgreeOnLive.len_eq (h : AgreeOnLive s t) : t.len = s.len := by rw [h.1]
theorem AgreeOnLive.prog_eq (h : AgreeOnLive s t) : t.prog = s.prog := by rw [h.1]
theorem AgreeOnLive.status_eq (h : AgreeOnLive s t) : t.status = s.status := by rw [h.1]

theorem AgreeOnLive.fetch_eq (h : AgreeOnLive s t) : t.fetch = s.fetch := by
  simp [State.fetch, h.pc_eq, h.len_eq, h.prog_eq]

theorem AgreeOnLive.slot_eq (h : AgreeOnLive s t) {j : Nat} (hj : j < s.sp.toNat) : t.slot j = s.slot j := h.2 j hj

theorem AgreeOnLive.live_eq (h : AgreeOnLive s t) : t.live = s.live := by
  simp only [State.live, h.sp_eq]
  exact List.map_congr_left fun j hj => h.slot_eq (List.mem_range.mp hj)

/-! ### Checks, effects and errors -/

theorem AgreeOnLive.valueFails_eq (h : AgreeOnLive s t) {i : Instr} (hneed : needDepth i ≤ s.sp.toNat) :
    valueFails i t = valueFails i s := by
  cases i with
  | div =>
    have h2 : 2 ≤ s.sp.toNat := hneed
    simp only [valueFails, h.sp_eq]
    rw [h.slot_eq (by omega), h.slot_eq (by omega)]
  | _ => rfl

/-- The depth check comes before any read of a slot, so that the checks read live slots only. -/
theorem AgreeOnLive.firstError_eq (h : AgreeOnLive s t) (i : Instr) : firstError i t = firstError i s := by
  have htarget : targetFails i t = targetFails i s := by cases i <;> simp only [targetFails, h.len_eq]
  have hroom : capacityFails i t = capacityFails i s := by cases i <;> simp only [capacityFails, h.sp_eq]
  by_cases hneed : needDepth i ≤ s.sp.toNat
  · simp only [firstError, htarget, hroom, h.sp_eq, h.valueFails_eq hneed]
  · simp only [firstError, htarget, h.sp_eq, Nat.not_le.mp hneed, if_true]

/-- An instruction with enough elements on the stack has the same effect on both. -/
theorem AgreeOnLive.effectOf_eq (h : AgreeOnLive s t) {i : Instr} (hneed : needDepth i ≤ s.sp.toNat) :
    effectOf i t = effectOf i s := by
  cases i with
  | push | jmp | blind => rfl
  | dump => simp only [effectOf, h.live_eq]
  | dup k =>
    have hk : k.toNat < s.sp.toNat := hneed
    simp only [effectOf, h.sp_eq]
    rw [h.slot_eq (by omega)]
  | add | sub | mul | div | eq | neq =>
    have h2 : 2 ≤ s.sp.toNat := hneed
    simp only [effectOf, h.sp_eq]
    rw [h.slot_eq (by omega), h.slot_eq (by omega)]
  | print | jnz | halt =>
    have h1 : 1 ≤ s.sp.toNat := hneed
    simp only [effectOf, h.sp_eq]
    rw [h.slot_eq (by omega)]

theorem AgreeOnLive.faultedAs (h : AgreeOnLive s t) (c : Cause) : AgreeOnLive (faultedAs c s) (faultedAs c t) := by
  obtain ⟨m, rfl, hslots⟩ := (agreeOnLive_iff s t).mp h
  exact ⟨rfl, hslots⟩

theorem AgreeOnLive.acceptOutput (h : AgreeOnLive s t) : AgreeOnLive s.acceptOutput t.acceptOutput := by
  obtain ⟨m, rfl, hslots⟩ := (agreeOnLive_iff s t).mp h
  exact ⟨rfl, hslots⟩

theorem AgreeOnLive.endRun (h : AgreeOnLive s t) : AgreeOnLive s.endRun t.endRun := by
  obtain ⟨m, rfl, hslots⟩ := (agreeOnLive_iff s t).mp h
  exact ⟨rfl, hslots⟩

/-- An effect that fits writes every slot that it makes live, so that what it leaves agrees again. -/
theorem AgreeOnLive.apply (h : AgreeOnLive s t) {e : Effect} (hfit : e.Fits s) : AgreeOnLive (e.apply s) (e.apply t) := by
  obtain ⟨m, rfl, hslots⟩ := (agreeOnLive_iff s t).mp h
  cases e with
  | advance | jump | emit => exact ⟨rfl, hslots⟩
  | popJump | halt =>
    have hpos : 0 < s.sp.toNat := by simp only [Effect.Fits] at hfit; omega
    have hsp := sp_sub_one (sp_pos.mpr hpos)
    refine ⟨rfl, fun j hj => hslots j ?_⟩
    have hj : j < (s.sp - 1#12).toNat := hj
    omega
  | replaceTop2 v =>
    have h2 : 2 ≤ s.sp.toNat := hfit
    have hsp := sp_sub_one (sp_pos.mpr (show 0 < s.sp.toNat by omega))
    refine ⟨rfl, fun j hj => ?_⟩
    have hj : j < (s.sp - 1#12).toNat := hj
    simp only [Effect.apply, State.advance_slot, State.slot_replaceTop2]
    split_ifs
    · rfl
    · exact hslots j (by omega)
  | push v =>
    refine ⟨rfl, fun j hj => ?_⟩
    have hj : j < (s.sp + 1#12).toNat := hj
    have hsp : (s.sp + 1#12).toNat ≤ s.sp.toNat + 1 := by
      rw [BitVec.toNat_add]
      exact Nat.mod_le _ _
    show Memory.read (Memory.write m s.sp.toNat v) j = Memory.read (Memory.write s.stack s.sp.toNat v) j
    simp only [Memory.read_write]
    split_ifs
    · rfl
    · exact hslots j (by omega)

/-! ### Steps and runs -/

theorem AgreeOnLive.exec (h : AgreeOnLive s t) (i : Instr) : OutcomesAgree (exec i s) (exec i t) := by
  obtain ⟨hnone, hfit, hs⟩ | ⟨c, hsome, hs⟩ := exec_cases i s
  · obtain ⟨-, hneed, -, -⟩ := (firstError_eq_none_iff i s).mp hnone
    have ht := exec_retires ((h.firstError_eq i).trans hnone)
    rw [hs, ht, h.effectOf_eq hneed]
    exact h.apply hfit
  · rw [hs, exec_faults ((h.firstError_eq i).trans hsome)]
    exact h.faultedAs c

theorem AgreeOnLive.runOne (h : AgreeOnLive s t) : OutcomesAgree (runOne s) (runOne t) := by
  simp only [Machine.runOne, h.pc_eq, h.len_eq, h.sp_eq, h.fetch_eq]
  split_ifs
  · exact h.endRun
  · rfl
  · cases s.fetch with
    | none => rfl
    | some i => exact h.exec i

theorem AgreeOnLive.step (h : AgreeOnLive s t) : OutcomesAgree (step s) (step t) := by
  by_cases hrun : s.status = .running
  · rw [step_running hrun, step_running (h.status_eq.trans hrun)]
    exact h.acceptOutput.runOne
  · rw [step_notRunning hrun, step_notRunning fun ht => hrun (h.status_eq.symm.trans ht)]
    exact h

theorem AgreeOnLive.run (h : AgreeOnLive s t) (n : Nat) : OutcomesAgree (core.run n s) (core.run n t) := by
  induction n generalizing s t with
  | zero => exact h
  | succ n ih =>
    have hstep : OutcomesAgree (core.step s) (core.step t) := h.step
    simp only [Host.Core.run]
    generalize core.step s = o at hstep
    generalize core.step t = p at hstep
    match o, p, hstep with
    | .next _, .next _, hnext => exact ih hnext
    | .fault _, .fault _, hfault => exact hfault
    | .refused _, .refused _, hrefused => exact hrefused

/-! ### What the host reads -/

theorem AgreeOnLive.statusPort_eq (h : AgreeOnLive s t) : t.statusPort = s.statusPort := by
  have hlive := h.live_eq
  obtain ⟨m, rfl, -⟩ := (agreeOnLive_iff s t).mp h
  simp only [State.statusPort, hlive]

theorem AgreeOnLive.observe_eq (h : AgreeOnLive s t) : t.observe = s.observe := by
  have hlive := h.live_eq
  obtain ⟨m, rfl, -⟩ := (agreeOnLive_iff s t).mp h
  simp only [State.observe, hlive]

end Congruence

/-- Settles O55: agreement on the live slots is kept by every step, by induction on the number of steps. -/
theorem staleSlotsAreUnobservable : Obligations.StaleSlotsAreUnobservable :=
  fun _ _ h => ⟨h.run, h.statusPort_eq.symm, h.observe_eq.symm⟩

end Sys2Proof.Machine
end

section
/-! PROOFS. The host's actions (10_state.md rules R41 to R45): what a batch leaves in program memory, what each action does in
the statuses that accept it, and that it is refused in the others. -/

namespace Sys2Proof.Machine

/-! ### Refused and accepted actions -/

theorem acceptsLoad_eq_false {s : State} (hidle : s.status ≠ .idle) (hended : s.status ≠ .ended) : s.acceptsLoad = false := by
  rw [Bool.eq_false_iff, Ne, acceptsLoad_iff]
  exact not_or.mpr ⟨hidle, hended⟩

section

variable {s : State} (depth : Word)

theorem load_refused (h : s.acceptsLoad = false) (ws : List InsnWord) : s.load depth ws = s := by simp [State.load, h]

theorem loadDirect_refused (h : s.acceptsLoad = false) (is : List Instr) : s.loadDirect depth is = s := by
  simp [State.loadDirect, h]

theorem loadImage_refused (h : s.acceptsLoad = false) (text : List Byte) : s.loadImage depth text = s := by
  simp [State.loadImage, h]

theorem load_illegal (h : s.acceptsLoad = true) {ws : List InsnWord} (hws : decodeAll ws = none) :
    s.load depth ws = s.loadFault .illegalOpcode := by
  simp [State.load, h, hws]

theorem load_decoded (h : s.acceptsLoad = true) {ws : List InsnWord} {is : List Instr} (hws : decodeAll ws = some is) :
    s.load depth ws = s.appendBatch depth is := by
  simp [State.load, h, hws]

theorem loadDirect_accepted (h : s.acceptsLoad = true) (is : List Instr) :
    s.loadDirect depth is = s.appendBatch depth is := by
  simp [State.loadDirect, h]

end

/-- What a direct load can do. -/
theorem loadDirect_cases (depth : Word) (is : List Instr) (s : State) :
    (s.acceptsLoad = false ∧ s.loadDirect depth is = s) ∨
    (s.acceptsLoad = true ∧ s.loadDirect depth is = s.appendBatch depth is) := by
  cases h : s.acceptsLoad with
  | false => exact .inl ⟨rfl, loadDirect_refused depth h is⟩
  | true => exact .inr ⟨rfl, loadDirect_accepted depth h is⟩

theorem run_accepted {s : State} (h : s.status = .idle ∨ s.status = .ended) : s.run = { s with status := .running } := by
  rcases h with h | h <;> simp [State.run, h]

theorem run_refused {s : State} (hidle : s.status ≠ .idle) (hended : s.status ≠ .ended) : s.run = s := by
  cases h : s.status <;> simp_all [State.run]

/-- What run can do. -/
theorem run_cases (s : State) :
    ((s.status = .idle ∨ s.status = .ended) ∧ s.run = { s with status := .running }) ∨
    (s.status ≠ .idle ∧ s.status ≠ .ended ∧ s.run = s) := by
  by_cases h : s.status = .idle ∨ s.status = .ended
  · exact .inl ⟨h, run_accepted h⟩
  · obtain ⟨hidle, hended⟩ := not_or.mp h
    exact .inr ⟨hidle, hended, run_refused hidle hended⟩

/-! ### Decoding a batch -/

theorem decode_encode (i : Instr) : decode (encode i) = .instr i := by
  have hcode : opcodeField (encode i) = opcodeOf i := opcodeField_append _ _
  have hoperand : operandField (encode i) = operandOf i := operandField_append _ _
  unfold decode
  rw [hcode, hoperand]
  cases i <;> rfl

theorem decodeAll_eq_some_iff (ws : List InsnWord) (is : List Instr) :
    decodeAll ws = some is ↔ ws.map decode = is.map Decoded.instr := by
  induction ws generalizing is with
  | nil => cases is <;> simp [decodeAll]
  | cons w ws ih =>
    unfold decodeAll
    cases hw : decode w with
    | illegalOpcode c => cases is <;> simp [hw]
    | instr i =>
      cases hws : decodeAll ws with
      | none =>
        have hnone : ∀ js : List Instr, ws.map decode ≠ js.map Decoded.instr := fun js h => by simp [(ih js).mpr h] at hws
        cases is <;> simp [hw, hnone]
      | some js =>
        have hjs := (ih js).mp hws
        cases is with
        | nil => simp
        | cons k ks =>
          have hinj : Function.Injective Decoded.instr := fun _ _ h => by cases h; rfl
          simp [hw, hjs, hinj.list_map.eq_iff]

theorem decodeAll_eq_none {ws : List InsnWord} (h : ∃ w ∈ ws, ∃ c, decode w = .illegalOpcode c) : decodeAll ws = none := by
  obtain ⟨w, hw, c, hc⟩ := h
  rw [Option.eq_none_iff_forall_ne_some]
  intro is his
  have hmem : Decoded.illegalOpcode c ∈ is.map Decoded.instr := by
    rw [← (decodeAll_eq_some_iff ws is).mp his, ← hc]
    exact List.mem_map_of_mem hw
  simp at hmem

theorem decodeAll_encode (is : List Instr) : decodeAll (is.map encode) = some is := by
  simp [decodeAll_eq_some_iff, Function.comp_def, decode_encode]

/-! ### Appending a batch -/

/-- A batch that fits does not carry len past its 64 bits. -/
theorem len_add_toNat {depth : Word} {s : State} {n : Nat} (h : s.len.toNat + n ≤ depth.toNat) :
    (s.len + BitVec.ofNat 64 n).toNat = s.len.toNat + n := by
  have := depth.isLt
  rw [BitVec.toNat_add, BitVec.toNat_ofNat]
  omega

theorem appendBatch_at_end {depth : Word} {s : State} {is : List Instr} (hprog : s.prog.length = s.len.toNat)
    (h : s.len.toNat + is.length ≤ depth.toNat) :
    s.appendBatch depth is = { s with prog := s.prog ++ is, len := s.len + BitVec.ofNat 64 is.length } := by
  rw [appendBatch_fits h, List.take_of_length_le hprog.le]

/-- R62: two batches that fit one after the other are one. -/
theorem appendBatch_append {depth : Word} {s : State} {as bs : List Instr} (hprog : s.prog.length = s.len.toNat)
    (h : s.len.toNat + as.length + bs.length ≤ depth.toNat) :
    (s.appendBatch depth as).appendBatch depth bs = s.appendBatch depth (as ++ bs) := by
  have has : s.len.toNat + as.length ≤ depth.toNat := by omega
  have hlen := len_add_toNat has
  rw [appendBatch_at_end hprog has, appendBatch_at_end (by simp [hprog, hlen]) (by simp only [hlen]; exact h),
    appendBatch_at_end hprog (by simp only [List.length_append]; omega)]
  simp [BitVec.add_assoc, BitVec.ofNat_add]

theorem appendBatch_status {depth : Word} {s : State} {is : List Instr}
    (h : (s.appendBatch depth is).status ≠ s.status) : s.appendBatch depth is = s.loadFault .programFull := by
  unfold State.appendBatch at h ⊢
  split_ifs at h ⊢
  · rfl
  · exact absurd rfl h

/-! ### The output trace -/

@[simp] theorem appendBatch_out (depth : Word) (is : List Instr) (s : State) : (s.appendBatch depth is).out = s.out := by
  unfold State.appendBatch
  split_ifs <;> rfl

@[simp] theorem load_out (depth : Word) (ws : List InsnWord) (s : State) : (s.load depth ws).out = s.out := by
  obtain ⟨-, heq⟩ | ⟨-, -, heq⟩ | ⟨-, is, -, heq⟩ := load_cases depth ws s <;> simp [heq]

@[simp] theorem loadDirect_out (depth : Word) (is : List Instr) (s : State) : (s.loadDirect depth is).out = s.out := by
  obtain ⟨-, heq⟩ | ⟨-, heq⟩ := loadDirect_cases depth is s <;> simp [heq]

@[simp] theorem loadImage_out (depth : Word) (text : List Byte) (s : State) : (s.loadImage depth text).out = s.out := by
  obtain ⟨-, heq⟩ | ⟨-, -, heq⟩ | ⟨-, ws, -, heq⟩ := loadImage_cases depth text s <;> simp [heq]

@[simp] theorem run_out (s : State) : s.run.out = s.out := by
  obtain ⟨-, heq⟩ | ⟨-, -, heq⟩ := run_cases s <;> rw [heq]

/-- R35: no host action but reset touches the output trace. -/
theorem hostAct_out {depth : Word} {a : HostAction} (ha : a ≠ .reset) (s : State) : (hostAct depth a s).out = s.out := by
  cases a with
  | reset => exact absurd rfl ha
  | load ws => exact load_out depth ws s
  | loadDirect is => exact loadDirect_out depth is s
  | loadImage text => exact loadImage_out depth text s
  | run => exact run_out s
  | accept => rfl

end Sys2Proof.Machine
end


section
/-! PROOFS. The invariant of the reachable states (10_state.md rule R53): reset has it, and every step and every host action
keeps it; hence no reachable state faults. -/

namespace Sys2Proof.Machine

/-! ### Reset -/

theorem inv_reset (depth : Word) : Inv depth State.reset where
  sp_le := Nat.zero_le _
  pc_le := Nat.le_refl _
  len_le := Nat.zero_le _
  prog_length := rfl
  stack_wf := Memory.wf_reset
  dump_length := fun _ h => absurd h List.not_mem_nil
  offered_last := fun _ h => nomatch h
  registers := rfl

/-! ### The termination registers -/

theorem registersAgree_running {s : State} (h : s.status = .running) :
    s.registersAgree = true ↔ s.cause = .none ∧ s.exitCode = 0#64 := by
  simp [State.registersAgree, h]

section

variable {depth : Word} {s t : State}

/-- A state that keeps the registers of a RUNNING state of the invariant has registers that agree. -/
theorem Inv.registersAgree_of_running (h : Inv depth s) (hrun : s.status = .running) (hstatus : t.status = s.status)
    (hcause : t.cause = s.cause) (hcode : t.exitCode = s.exitCode) : t.registersAgree = true := by
  rw [registersAgree_running (hstatus.trans hrun), hcause, hcode]
  exact (registersAgree_running hrun).mp h.registers

/-- Only the agreement of the three registers is to be shown again when only they are written. -/
theorem Inv.withRegisters (h : Inv depth s) {k : Status} {c : Cause} {x : Word}
    (hregs : { s with status := k, cause := c, exitCode := x }.registersAgree = true) :
    Inv depth { s with status := k, cause := c, exitCode := x } :=
  { h with registers := hregs }

theorem Inv.faultedAs (h : Inv depth s) {i : Instr} {c : Cause} (hc : firstError i s = some c) :
    Inv depth (faultedAs c s) := by
  refine h.withRegisters ?_
  rcases firstError_cause hc with rfl | rfl | rfl | rfl <;> rfl

theorem Inv.loadFault (h : Inv depth s) {c : Cause} (hc : c = .illegalOpcode ∨ c = .malformedImage ∨ c = .programFull) :
    Inv depth (s.loadFault c) := by
  refine h.withRegisters ?_
  rcases hc with rfl | rfl | rfl <;> rfl

theorem Inv.endRun (h : Inv depth s) (hrun : s.status = .running) : Inv depth s.endRun := by
  obtain ⟨hcause, -⟩ := (registersAgree_running hrun).mp h.registers
  refine h.withRegisters ?_
  simp [State.registersAgree, hcause, Config.exitEnd]

theorem Inv.acceptOutput (h : Inv depth s) : Inv depth s.acceptOutput :=
  { h with offered_last := fun _ he => nomatch he }

/-! ### One instruction -/

/-- The words emitted by DUMP are no more than the stack's slots. -/
theorem Inv.emit_dump_length (h : Inv depth s) {e : OutEvent} (hfit : (Effect.emit e).Fits s) (vs : List Word)
    (hvs : OutEvent.dump vs ∈ s.out ++ [e]) : vs.length ≤ 2048 := by
  rcases List.mem_append.mp hvs with hold | hnew
  · exact h.dump_length vs hold
  · rw [hfit vs (List.mem_singleton.mp hnew).symm]
    simpa [State.live] using h.sp_le

/-- R53: an effect that fits keeps the invariant of a state from which the core fetches. -/
theorem Inv.apply (h : Inv depth s) (hrun : s.status = .running) (hpc : s.pc < s.len) {e : Effect} (hfit : e.Fits s) :
    Inv depth (e.apply s) := by
  have hsp := h.sp_le
  have hnext : (s.pc + 1#64).toNat ≤ s.len.toNat := by bv_omega
  have hpop : 0 < s.sp.toNat → (s.sp - 1#12).toNat ≤ 2048 := fun hpos => by
    rw [sp_sub_one (sp_pos.mpr hpos)]
    omega
  cases e with
  | push v =>
    have hroom : s.sp.toNat ≠ 2048 := hfit
    exact
      { h with
        sp_le := by
          show (s.sp + 1#12).toNat ≤ 2048
          rw [sp_add_one hsp]
          omega
        pc_le := hnext
        stack_wf := Memory.wf_write _ _ v h.stack_wf (show s.sp.toNat < 2048 by omega)
        registers := h.registersAgree_of_running hrun rfl rfl rfl }
  | replaceTop2 v =>
    have htwo : 2 ≤ s.sp.toNat := hfit
    exact
      { h with
        sp_le := hpop (by omega)
        pc_le := hnext
        stack_wf := Memory.wf_write _ _ v h.stack_wf (show s.sp.toNat - 2 < 2048 by omega)
        registers := h.registersAgree_of_running hrun rfl rfl rfl }
  | advance => exact { h with pc_le := hnext, registers := h.registersAgree_of_running hrun rfl rfl rfl }
  | jump n => exact { h with pc_le := Nat.le_of_lt hfit, registers := h.registersAgree_of_running hrun rfl rfl rfl }
  | popJump n =>
    obtain ⟨hpos, hn⟩ := hfit
    exact { h with sp_le := hpop hpos, pc_le := Nat.le_of_lt hn, registers := h.registersAgree_of_running hrun rfl rfl rfl }
  | emit e =>
    exact
      { h with
        pc_le := hnext
        dump_length := h.emit_dump_length hfit
        offered_last := fun e' he' => by cases he'; exact List.getLast?_concat
        registers := h.registersAgree_of_running hrun rfl rfl rfl }
  | halt code =>
    obtain ⟨hcause, -⟩ := (registersAgree_running hrun).mp h.registers
    exact { h with sp_le := hpop hfit, registers := by simp [State.registersAgree, Effect.apply, hcause] }

/-! ### Steps -/

/-- R51: below len an instruction of the program is fetched. -/
theorem Inv.exists_fetch (h : Inv depth s) (hpc : s.pc ≠ s.len) : s.pc < s.len ∧ ∃ i, s.fetch = some i := by
  have hle := h.pc_le
  have hlt : s.pc < s.len := by bv_omega
  have hidx : s.pc.toNat < s.prog.length := by
    rw [h.prog_length]
    exact hlt
  exact ⟨hlt, s.prog[s.pc.toNat], by simp [State.fetch, hlt, hidx]⟩

/-- In RUNNING with no event waiting, the core of a state of the invariant goes to one of the invariant, and never faults. -/
theorem Inv.runOne (h : Inv depth s) (hrun : s.status = .running) : ∃ t, runOne s = .next t ∧ Inv depth t := by
  obtain ⟨-, hend⟩ | ⟨-, hsp, -⟩ | ⟨hpc, -, i, -, hexec⟩ | ⟨hpc, -, hnone, -⟩ := runOne_cases s
  · exact ⟨_, hend, h.endRun hrun⟩
  · exact absurd h.sp_le (Nat.not_le.mpr hsp)
  · rw [hexec]
    obtain ⟨-, hfit, hnext⟩ | ⟨c, hc, hfault⟩ := exec_cases i s
    · obtain ⟨hlt, -⟩ := h.exists_fetch hpc
      exact ⟨_, hnext, h.apply hrun hlt hfit⟩
    · exact ⟨_, hfault, h.faultedAs hc⟩
  · obtain ⟨-, i, hsome⟩ := h.exists_fetch hpc
    exact absurd (hnone.symm.trans hsome) (Option.some_ne_none i).symm

theorem Inv.coreStep (h : Inv depth s) : ∃ t, coreStep s = .next t ∧ Inv depth t := by
  by_cases hrun : s.status = .running
  · by_cases hfree : s.offered = none
    · rw [coreStep_running hrun hfree]
      exact h.runOne hrun
    · exact ⟨s, coreStep_waiting hfree, h⟩
  · exact ⟨s, coreStep_notRunning hrun, h⟩

/-- The machine's step is the core's step after the host's acceptance, in RUNNING; elsewhere it is the core's. -/
theorem step_eq_coreStep (s : State) : step s = Machine.coreStep s ∨ step s = Machine.coreStep s.acceptOutput := by
  by_cases hrun : s.status = .running
  · exact .inr (by rw [step_running hrun, coreStep_running (s := s.acceptOutput) hrun rfl])
  · exact .inl (by rw [step_notRunning hrun, coreStep_notRunning hrun])

theorem Inv.step (h : Inv depth s) : ∃ t, step s = .next t ∧ Inv depth t := by
  rcases step_eq_coreStep s with heq | heq <;> rw [heq]
  · exact h.coreStep
  · exact h.acceptOutput.coreStep

theorem Inv.of_coreStep (h : Inv depth s) (hstep : Machine.coreStep s = .next t) : Inv depth t := by
  obtain ⟨u, hu, hinv⟩ := h.coreStep
  cases hstep.symm.trans hu
  exact hinv

theorem Inv.of_step (h : Inv depth s) (hstep : Machine.step s = .next t) : Inv depth t := by
  obtain ⟨u, hu, hinv⟩ := h.step
  cases hstep.symm.trans hu
  exact hinv

/-! ### Host actions -/

theorem Inv.appendBatch (h : Inv depth s) (is : List Instr) :
    Inv depth (s.appendBatch depth is) := by
  by_cases hfull : depth.toNat < s.len.toNat + is.length
  · rw [appendBatch_full hfull]
    exact h.loadFault (.inr (.inr rfl))
  · have hfits := Nat.not_lt.mp hfull
    have hlen := len_add_toNat hfits
    have hpc := h.pc_le
    rw [appendBatch_fits hfits]
    exact
      { h with
        pc_le := by simp only [hlen]; omega
        len_le := by simp only [hlen]; exact hfits
        prog_length := by simp [hlen, h.prog_length] }

theorem Inv.load (h : Inv depth s) (ws : List InsnWord) : Inv depth (s.load depth ws) := by
  obtain ⟨-, heq⟩ | ⟨-, -, heq⟩ | ⟨-, is, -, heq⟩ := load_cases depth ws s <;> rw [heq]
  · exact h
  · exact h.loadFault (.inl rfl)
  · exact h.appendBatch is

theorem Inv.loadDirect (h : Inv depth s) (is : List Instr) : Inv depth (s.loadDirect depth is) := by
  obtain ⟨-, heq⟩ | ⟨-, heq⟩ := loadDirect_cases depth is s <;> rw [heq]
  · exact h
  · exact h.appendBatch is

theorem Inv.loadImage (h : Inv depth s) (text : List Byte) : Inv depth (s.loadImage depth text) := by
  obtain ⟨-, heq⟩ | ⟨-, -, heq⟩ | ⟨-, ws, -, heq⟩ := loadImage_cases depth text s <;> rw [heq]
  · exact h
  · exact h.loadFault (.inr (.inl rfl))
  · exact h.load ws

/-- IDLE and ENDED have the cause and the exit code of RUNNING. -/
theorem Inv.run (h : Inv depth s) : Inv depth s.run := by
  have hregs := h.registers
  obtain ⟨hidle | hended, heq⟩ | ⟨-, -, heq⟩ := run_cases s <;> rw [heq]
  · exact { h with registers := by simp_all [State.registersAgree] }
  · exact { h with registers := by simp_all [State.registersAgree] }
  · exact h

theorem Inv.hostAct (h : Inv depth s) (a : HostAction) : Inv depth (hostAct depth a s) := by
  cases a with
  | reset => exact inv_reset depth
  | load ws => exact h.load ws
  | loadDirect is => exact h.loadDirect is
  | loadImage text => exact h.loadImage text
  | run => exact h.run
  | accept => exact h.acceptOutput

/-! ### Reachable states -/

theorem Reachable.inv (h : Reachable depth s) : Inv depth s := by
  induction h with
  | reset => exact inv_reset depth
  | core _ hstep ih => exact ih.of_coreStep hstep
  | host a _ ih => exact ih.hostAct a

/-- The machine's step stays among the reachable states: acceptance is one of the host's actions. -/
theorem Reachable.of_step (h : Reachable depth s) (hstep : Machine.step s = .next t) : Reachable depth t := by
  rcases step_eq_coreStep s with heq | heq
  · exact .core h (heq ▸ hstep)
  · exact .core (.host .accept h) (heq ▸ hstep)

end

/-! ### The obligations -/

/-- Settles O50. -/
theorem resetSatisfiesInvariant : Obligations.ResetSatisfiesInvariant := inv_reset

/-- Settles O51: a step ends the run, executes one of the seven effects or takes an error, and each keeps the invariant. -/
theorem stepKeepsInvariant : Obligations.StepKeepsInvariant := fun _ _ _ h hstep => h.of_step hstep

/-- Settles O52. -/
theorem hostActionsKeepInvariant : Obligations.HostActionsKeepInvariant :=
  fun _ _ h => ⟨fun _ hstep => h.of_coreStep hstep, h.hostAct⟩

/-- Settles O53: the invariant holds of every reachable state, and a step from it faults on no path. -/
theorem reachableStatesNeverFault : Obligations.ReachableStatesNeverFault := by
  intro depth s h
  obtain ⟨t, hcore, -⟩ := h.inv.coreStep
  obtain ⟨u, hstep, -⟩ := h.inv.step
  exact ⟨h.inv, ⟨t, hcore⟩, u, hstep, h.of_step hstep⟩

end Sys2Proof.Machine
end

section
/-! PROOFS. Rules over all instructions, read off the seven effects (30_encoding.md rule R115, 20_memory.md rule R63,
60_exceptions.md rules R236 and R252), and the output trace (10_state.md rule R35). -/

namespace Sys2Proof.Machine

/-! ### sp -/

theorem effectOf_apply_sp {i : Instr} {s : State} (hsp : s.sp.toNat ≤ 2048) (hneed : needDepth i ≤ s.sp.toNat) :
    ((effectOf i s).apply s).sp.toNat = routedSp i s := by
  have hpop : 0 < s.sp.toNat → (s.sp - 1#12).toNat = s.sp.toNat - 1 := fun h => sp_sub_one (sp_pos.mpr h)
  cases i with
  | push | dup => exact sp_add_one hsp
  | add | sub | mul | div | eq | neq => exact hpop (show 0 < s.sp.toNat from Nat.lt_of_lt_of_le Nat.two_pos hneed)
  | halt => exact hpop hneed
  | jnz n =>
    simp only [effectOf, routedSp]
    split_ifs
    · exact hpop hneed
    · rfl
  | dump | print | jmp | blind => rfl

theorem routedSp_le {i : Instr} {s : State} (hsp : s.sp.toNat ≤ 2048) (hroom : capacityFails i s = false) :
    routedSp i s ≤ 2048 := by
  cases i with
  | push | dup =>
    have hne : s.sp.toNat ≠ 2048 := by simpa [capacityFails] using hroom
    simp only [routedSp]
    omega
  | jnz n =>
    simp only [routedSp]
    split_ifs <;> omega
  | _ =>
    simp only [routedSp]
    omega

/-- Settles O46. -/
theorem stackDepthFollowsSummary : Obligations.StackDepthFollowsSummary := by
  intro i s hsp
  obtain ⟨hnone, -, hnext⟩ | ⟨c, hsome, hfault⟩ := exec_cases i s
  · obtain ⟨-, hneed, hroom, -⟩ := (firstError_eq_none_iff i s).mp hnone
    have hrouted := effectOf_apply_sp hsp hneed
    exact ⟨_, hnext, hrouted ▸ routedSp_le hsp hroom, fun _ => hrouted, fun h => absurd hnone h⟩
  · exact ⟨_, hfault, hsp, fun h => absurd (h.symm.trans hsome) (Option.some_ne_none c).symm, fun _ => rfl⟩

/-! ### Program memory -/

@[simp] theorem Effect.apply_prog (e : Effect) (s : State) : (e.apply s).prog = s.prog := by cases e <;> rfl

@[simp] theorem Effect.apply_len (e : Effect) (s : State) : (e.apply s).len = s.len := by cases e <;> rfl

/-- R63. -/
theorem exec_keeps_program {i : Instr} {s t : State} (h : exec i s = .next t) : t.prog = s.prog ∧ t.len = s.len := by
  obtain ⟨-, -, hnext⟩ | ⟨c, -, hfault⟩ := exec_cases i s
  · cases hnext.symm.trans h
    exact ⟨Effect.apply_prog _ s, Effect.apply_len _ s⟩
  · cases hfault.symm.trans h
    exact ⟨rfl, rfl⟩

/-! ### The output -/

/-- An effect emits only when it is `Effect.emit`. -/
theorem Effect.apply_output (e : Effect) (s : State) :
    SameOutput s (e.apply s) ∨ ∃ ev, e = .emit ev ∧ (e.apply s).out = s.out ++ [ev] ∧ (e.apply s).offered = some ev := by
  cases e with
  | emit ev => exact .inr ⟨ev, rfl, rfl, rfl⟩
  | _ => exact .inl ⟨rfl, rfl⟩

theorem effectOf_ne_emit {i : Instr} (hdump : i ≠ .dump) (hprint : i ≠ .print) (s : State) (ev : OutEvent) :
    effectOf i s ≠ .emit ev := by
  cases i with
  | dump => exact absurd rfl hdump
  | print => exact absurd rfl hprint
  | jnz n =>
    simp only [effectOf]
    split_ifs <;> exact nofun
  | _ => exact nofun

/-- Settles O48: of the seven effects only an emission reaches the output, and only DUMP and PRINT have it. -/
theorem onlyDumpAndPrintEmit : Obligations.OnlyDumpAndPrintEmit := by
  intro i s t h
  obtain ⟨hnone, -, hnext⟩ | ⟨c, -, hfault⟩ := exec_cases i s
  · cases hnext.symm.trans h
    obtain hsame | ⟨ev, hemit, hout, hoffered⟩ := Effect.apply_output (effectOf i s) s
    · exact ⟨fun _ _ => hsame, .inl hsame⟩
    · exact ⟨fun hd hp => absurd hemit (effectOf_ne_emit hd hp s ev), .inr ⟨ev, hout, hoffered, hnone⟩⟩
  · cases hfault.symm.trans h
    exact ⟨fun _ _ => ⟨rfl, rfl⟩, .inl ⟨rfl, rfl⟩⟩

theorem exec_out_prefix {i : Instr} {s t : State} (h : exec i s = .next t) : s.out <+: t.out := by
  obtain ⟨hout, -⟩ | ⟨e, hout, -⟩ := (onlyDumpAndPrintEmit i s t h).2
  · rw [hout]
  · rw [hout]
    exact List.prefix_append _ _

theorem runOne_out_prefix {s t : State} (h : runOne s = .next t) : s.out <+: t.out := by
  obtain ⟨-, heq⟩ | ⟨-, -, heq⟩ | ⟨-, -, i, -, heq⟩ | ⟨-, -, -, heq⟩ := runOne_cases s <;> rw [heq] at h
  · cases h
    exact List.prefix_refl _
  · cases h
  · exact exec_out_prefix h
  · cases h

theorem coreStep_out_prefix {s t : State} (h : coreStep s = .next t) : s.out <+: t.out := by
  by_cases hrun : s.status = .running
  · by_cases hfree : s.offered = none
    · exact runOne_out_prefix ((coreStep_running hrun hfree).symm.trans h)
    · cases (coreStep_waiting hfree).symm.trans h
      exact List.prefix_refl _
  · cases (coreStep_notRunning hrun).symm.trans h
    exact List.prefix_refl _

theorem step_out_prefix {s t : State} (h : step s = .next t) : s.out <+: t.out := by
  rcases step_eq_coreStep s with heq | heq
  · exact coreStep_out_prefix (heq ▸ h)
  · exact coreStep_out_prefix (s := s.acceptOutput) (heq ▸ h)

end Sys2Proof.Machine
end

section
/-! PROOFS. The obligations on the host's actions. -/

namespace Sys2Proof.Machine

/-- Settles O47. -/
theorem programIsNeverWrittenByARun : Obligations.ProgramIsNeverWrittenByARun := by
  refine ⟨fun _ _ _ => exec_keeps_program, fun depth s hrun => ?_⟩
  have hrefused : s.acceptsLoad = false := acceptsLoad_eq_false (by simp [hrun]) (by simp [hrun])
  exact ⟨load_refused depth hrefused, loadDirect_refused depth hrefused, loadImage_refused depth hrefused⟩

/-- Settles O17. -/
theorem loadAppendsWholeBatchOrNothing : Obligations.LoadAppendsWholeBatchOrNothing := by
  intro depth ws s
  refine ⟨fun hidle hended => load_refused depth (acceptsLoad_eq_false hidle hended) ws, fun hstatus => ?_⟩
  have hload := (acceptsLoad_iff s).mpr hstatus
  refine ⟨fun hbad => load_illegal depth hload (decodeAll_eq_none hbad), fun is his => ?_⟩
  have hlength : ws.length = is.length := by simpa using congrArg List.length his
  rw [load_decoded depth hload ((decodeAll_eq_some_iff ws is).mpr his), hlength]
  refine ⟨appendBatch_full, fun hfits hprog => ⟨_, appendBatch_at_end hprog hfits, len_add_toNat hfits, ?_, ?_, rfl⟩⟩
  · exact fun j hj => List.getElem?_append_left (hprog ▸ hj)
  · simp [← hprog, List.getElem?_append_right]

/-- Settles O18: encoding a batch and decoding it again gives the batch. -/
theorem loadDirectMatchesLoad : Obligations.LoadDirectMatchesLoad := by
  intro depth is s
  obtain ⟨hrefused, heq⟩ | ⟨hload, heq⟩ := loadDirect_cases depth is s <;> rw [heq]
  · exact ⟨(load_refused depth hrefused _).symm, fun hchanged => absurd rfl hchanged⟩
  · refine ⟨(load_decoded depth hload (decodeAll_encode is)).symm, fun hchanged => ?_⟩
    rw [appendBatch_status hchanged]
    rfl

/-- Settles O19. -/
theorem successiveLoadsConcatenate : Obligations.SuccessiveLoadsConcatenate := by
  intro depth s as bs h hstatus hfits
  have hload := (acceptsLoad_iff s).mpr hstatus
  have hload' : (s.appendBatch depth as).acceptsLoad = true := by
    rw [appendBatch_fits (by omega)]
    exact hload
  rw [loadDirect_accepted depth hload, loadDirect_accepted depth hload', loadDirect_accepted depth hload]
  refine ⟨appendBatch_append h.prog_length hfits, ?_⟩
  rw [appendBatch_at_end h.prog_length (by simp only [List.length_append]; omega), List.append_assoc]

/-- Settles O54. -/
theorem outputTraceOnlyGrows : Obligations.OutputTraceOnlyGrows :=
  ⟨fun _ _ => step_out_prefix, fun _ _ => coreStep_out_prefix, fun _ _ s ha => hostAct_out ha s⟩

/-- Settles O16. -/
theorem resetRestoresResetValues : Obligations.ResetRestoresResetValues := by
  rintro depth s r (rfl | rfl) <;> exact ⟨fun _ _ => rfl, rfl, rfl, rfl, rfl, rfl, rfl, rfl⟩

/-- Settles O22. -/
theorem runStartsOrResumes : Obligations.RunStartsOrResumes := fun _ => ⟨run_accepted, run_refused⟩

/-- Settles O29. -/
theorem nothingExecutesOutsideRunning : Obligations.NothingExecutesOutsideRunning :=
  fun _ h => ⟨coreStep_notRunning h, step_notRunning h⟩

/-- Settles O23. -/
theorem terminalStatusLastsUntilReset : Obligations.TerminalStatusLastsUntilReset := by
  intro depth s hterminal
  have hidle : s.status ≠ .idle := by rcases hterminal with h | h | h <;> simp [h]
  have hended : s.status ≠ .ended := by rcases hterminal with h | h | h <;> simp [h]
  have hrunning : s.status ≠ .running := by rcases hterminal with h | h | h <;> simp [h]
  have hrefused := acceptsLoad_eq_false hidle hended
  refine ⟨coreStep_notRunning hrunning, step_notRunning hrunning, fun a hreset haccept => ?_, rfl⟩
  cases a with
  | reset => exact absurd rfl hreset
  | accept => exact absurd rfl haccept
  | load ws => exact load_refused depth hrefused ws
  | loadDirect is => exact loadDirect_refused depth hrefused is
  | loadImage text => exact loadImage_refused depth hrefused text
  | run => exact run_refused hidle hended

end Sys2Proof.Machine
end

section
/-! PROOFS. The step from the instruction at pc (10_state.md rules R50 to R52), the ways an instruction comes to stand there, and
what the host reads. -/

namespace Sys2Proof.Machine

/-! ### One step in RUNNING -/

theorem runOne_at_end {s : State} (h : s.pc = s.len) : runOne s = .next s.endRun := by simp [runOne, h]

theorem runOne_fetched {s : State} {i : Instr} (hsp : s.sp.toNat ≤ 2048) (hpc : s.pc < s.len)
    (hi : s.prog[s.pc.toNat]? = some i) : runOne s = exec i s := by
  have hne : s.pc ≠ s.len := BitVec.ne_of_lt hpc
  simp [runOne, hne, Config.stackDepth, Nat.not_lt.mpr hsp, State.fetch, hpc, hi]

/-- R50: the machine's step in RUNNING executes the instruction at pc, the waiting event being accepted first. -/
theorem step_fetched {s : State} {i : Instr} (hrun : s.status = .running) (hsp : s.sp.toNat ≤ 2048) (hpc : s.pc < s.len)
    (hi : s.prog[s.pc.toNat]? = some i) : step s = exec i { s with offered := none } :=
  (step_running hrun).trans (runOne_fetched (s := s.acceptOutput) hsp hpc hi)

/-- Settles O24. -/
theorem stepRunsTheInstructionAtPc : Obligations.StepRunsTheInstructionAtPc :=
  fun _ _ hrun hsp hpc hi =>
    ⟨fun hfree => (coreStep_running hrun hfree).trans (runOne_fetched hsp hpc hi), step_fetched hrun hsp hpc hi⟩

theorem acceptOutput_of_none {s : State} (h : s.offered = none) : s.acceptOutput = s := by
  rw [State.acceptOutput, ← h]

/-- Settles O27. -/
theorem normalEndBeforeAnyFetch : Obligations.NormalEndBeforeAnyFetch := by
  intro s hrun hfree hpc
  rw [coreStep_running hrun hfree, step_running hrun, acceptOutput_of_none hfree, runOne_at_end hpc]
  exact ⟨rfl, rfl⟩

/-- Settles O28. -/
theorem coreWaitsForAcceptance : Obligations.CoreWaitsForAcceptance :=
  fun _ _ e _ hwaits => ⟨coreStep_waiting (hwaits ▸ Option.some_ne_none e), rfl⟩

/-! ### An instruction comes to stand at pc -/

theorem placeAtPc_prog {s : State} {i : Instr} (h : s.pc.toNat ≤ s.prog.length) :
    (s.placeAtPc i).prog[s.pc.toNat]? = some i := by
  have hbelow : (s.prog.take s.pc.toNat).length = s.pc.toNat := by simpa using h
  simp [State.placeAtPc, Nat.sub_eq_zero_of_le h, hbelow]

theorem placeAtPc_pc_lt_len {s : State} {i : Instr} (h : s.pc.toNat < 2 ^ 64 - 1) : s.pc < (s.placeAtPc i).len := by
  simp only [State.placeAtPc]
  split_ifs with hlt
  · exact hlt
  · bv_omega

/-- Settles O25: the placed instruction stands at pc, below len, in RUNNING. -/
theorem placedWordRunsNext : Obligations.PlacedWordRunsNext := by
  intro s nbits w i hw hsp hprog hpc
  have hplaced : s.withFetchWord nbits w = s.placeAtPc i := by simp [State.withFetchWord, fetchWordPlaced, hw]
  rw [hplaced]
  exact ⟨placeAtPc_prog hprog, step_fetched rfl hsp (placeAtPc_pc_lt_len hpc) (placeAtPc_prog hprog)⟩

/-- Settles O26: the word's instruction is appended at the old len, where pc stands, and run leaves pc there. -/
theorem loadedWordRunsAfterRun : Obligations.LoadedWordRunsAfterRun := by
  intro depth s w i h hstatus hpc hroom hw
  have hlen : (s.len + 1#64).toNat = s.len.toNat + 1 := len_add_toNat (n := 1) hroom
  have hload : s.load depth [w] = { s with prog := s.prog ++ [i], len := s.len + 1#64 } := by
    rw [load_decoded depth ((acceptsLoad_iff s).mpr hstatus) ((decodeAll_eq_some_iff [w] [i]).mpr (by simp [hw]))]
    exact appendBatch_at_end h.prog_length hroom
  have hrun : (s.load depth [w]).run = { s.load depth [w] with status := .running } :=
    run_accepted (by rw [hload]; exact hstatus)
  rw [hrun, hload]
  refine step_fetched rfl h.sp_le ?_ ?_
  · show s.pc < s.len + 1#64
    rw [hpc, BitVec.lt_def, hlen]
    exact Nat.lt_succ_self _
  · show (s.prog ++ [i])[s.pc.toNat]? = some i
    rw [hpc, ← h.prog_length]
    exact List.getElem?_concat_length

/-! ### What the host reads -/

/-- R46: the status port outside RUNNING. -/
theorem statusPort_readable {s : State} (h : s.status ≠ .running) :
    s.statusPort = some ⟨s.status.code, s.cause.code, s.exitCode, s.pc, s.len, s.sp, s.live⟩ := by
  simp [State.statusPort, h]

theorem live_length (s : State) : s.live.length = s.sp.toNat := by simp [State.live]

theorem live_getElem? {s : State} {j : Nat} (h : j < s.sp.toNat) : s.live[j]? = some (s.slot j) := by
  simp [State.live, h]

/-- Settles O56. -/
theorem statusPortShowsState : Obligations.StatusPortShowsState := by
  intro s
  refine ⟨fun h => by simp [State.statusPort, h], fun h => ⟨_, statusPort_readable h, rfl, rfl, rfl, rfl, live_length s,
    fun _ => live_getElem?, ?_⟩⟩
  refine ⟨?_, ?_, ?_, ?_, ?_, ?_, ?_, ?_, ?_, ?_, ?_, ?_, ?_⟩ <;> exact fun hcode => by rw [hcode]; rfl

/-- Words sent with load_last low come before the batch that follows (D14). -/
theorem firstBatch_words_append (ws : List InsnWord) (ts : List LoadTransfer) :
    firstBatch (ws.map (fun v => ⟨v, false, false⟩) ++ ts) = (firstBatch ts).map fun p => (ws ++ p.1, p.2) := by
  induction ws with
  | nil => simp
  | cons w ws ih =>
    simp only [List.map_cons, List.cons_append, firstBatch, ih]
    cases firstBatch ts <;> simp [LoadTransfer.words]

/-- Settles O58. -/
theorem signalFormCarriesBatchesAndEvents : Obligations.SignalFormCarriesBatchesAndEvents := by
  refine ⟨fun ws w rest => ?_, fun w rest => rfl, fun vs => ⟨by simp [OutEvent.transfers], rfl, fun j _ => ?_⟩⟩
  · rw [firstBatch_words_append]
    rfl
  · simp [OutEvent.transfers]

end Sys2Proof.Machine
end

section
/-! PROOFS. The word's two fields and the opcode map (30_encoding.md rules R90 to R99). Everything about the decoder follows
from two facts: a defined code followed by an operand field decodes to the instruction of that code with that operand, and a
code of 14 or more is illegal. -/

namespace Sys2Proof

/-! ### The fields of a word -/

/-- R90: a word is its opcode field followed by its operand field. -/
theorem opcodeField_append_operandField (w : InsnWord) : opcodeField w ++ operandField w = w := by
  refine BitVec.eq_of_getLsbD_eq fun i hi => ?_
  rw [getLsbD_word, opcodeField, operandField, BitVec.getLsbD_extractLsb', BitVec.getLsbD_extractLsb']
  split_ifs with hlow
  · simp [hlow]
  · have hcode : i - 64 < 8 := by omega
    have hindex : 64 + (i - 64) = i := by omega
    simp [hcode, hindex]

/-! ### The opcode map -/

/-- The codes of the four kinds that carry an operand (R91). -/
def operandCodes : List (BitVec 8) := [0#8, 5#8, 8#8, 10#8]

/-- `i` with `n` for its operand, when its kind has one (R92). -/
def Instr.withOperand (i : Instr) (n : Word) : Instr :=
  match i with
  | .push _ => .push n
  | .dup _ => .dup n
  | .jmp _ => .jmp n
  | .jnz _ => .jnz n
  | j => j

@[simp] theorem opcodeOf_withOperand (i : Instr) (n : Word) : opcodeOf (i.withOperand n) = opcodeOf i := by cases i <;> rfl

theorem operandOf_withOperand {i : Instr} (h : opcodeOf i ∈ operandCodes) (n : Word) :
    operandOf (i.withOperand n) = n := by
  cases i with
  | push | dup | jmp | jnz => rfl
  | _ => exact absurd h (by decide)

theorem withOperand_eq_self {i : Instr} (h : opcodeOf i ∉ operandCodes) (n : Word) : i.withOperand n = i := by
  cases i with
  | push | dup | jmp | jnz => exact absurd (by simp [opcodeOf, operandCodes]) h
  | _ => rfl

theorem operandOf_eq_zero {i : Instr} (h : opcodeOf i ∉ operandCodes) : operandOf i = 0#64 := by
  cases i with
  | push | dup | jmp | jnz => exact absurd (by simp [opcodeOf, operandCodes]) h
  | _ => rfl

/-- R94, R95: the decoding of a defined code and any operand field. -/
theorem decode_opcodeOf_append (i : Instr) (n : Word) : decode (opcodeOf i ++ n) = .instr (i.withOperand n) := by
  unfold decode
  rw [opcodeField_append, operandField_append]
  cases i <;> rfl

/-- R95, R96: the decoding of a reserved code. -/
theorem decode_illegal_append {c : BitVec 8} (h : 14 ≤ c.toNat) (n : Word) : decode (c ++ n) = .illegalOpcode c := by
  unfold decode
  rw [opcodeField_append]
  split
  case h_15 => rfl
  all_goals omega

/-- One instruction of each kind, in the order of the codes (R91). -/
def instrKinds : List Instr :=
  [.push 0#64, .add, .sub, .mul, .div, .dup 0#64, .dump, .print, .jmp 0#64, .eq, .jnz 0#64, .halt, .blind, .neq]

theorem opcodeOf_instrKinds : instrKinds.map opcodeOf = (List.range 14).map (BitVec.ofNat 8) := by decide

/-- R91: each code below 14 is that of a kind. -/
theorem exists_opcodeOf_eq {c : BitVec 8} (h : c.toNat < 14) : ∃ i, opcodeOf i = c := by
  have hmem : c ∈ instrKinds.map opcodeOf := by
    rw [opcodeOf_instrKinds]
    exact List.mem_map.mpr ⟨c.toNat, List.mem_range.mpr h, by simp⟩
  obtain ⟨i, -, hi⟩ := List.mem_map.mp hmem
  exact ⟨i, hi⟩

/-- What a word that decodes looks like: a kind's code, and the operand field the instruction takes where its kind has one. -/
theorem decode_eq_instr {w : InsnWord} {i : Instr} (h : decode w = .instr i) :
    ∃ j n, w = opcodeOf j ++ n ∧ i = j.withOperand n := by
  rw [← opcodeField_append_operandField w] at h ⊢
  by_cases hcode : (opcodeField w).toNat < 14
  · obtain ⟨j, hj⟩ := exists_opcodeOf_eq hcode
    rw [← hj, decode_opcodeOf_append] at h
    exact ⟨j, operandField w, by rw [hj], (Decoded.instr.inj h).symm⟩
  · rw [decode_illegal_append (Nat.not_lt.mp hcode)] at h
    cases h

/-! ### The obligations -/

/-- Settles O3. -/
theorem encodeThenDecode : Obligations.EncodeThenDecode :=
  fun i => ⟨Machine.decode_encode i, opcodeField_append _ _, operandField_append _ _⟩

/-- Settles O2. -/
theorem decodeFollowsOpcodeMap : Obligations.DecodeFollowsOpcodeMap := by
  refine ⟨fun n => ?_, fun w => ⟨_, _, (opcodeField_append_operandField w).symm⟩⟩
  have hdefined (i : Instr) : decode (opcodeOf i ++ n) = .instr (i.withOperand n) := decode_opcodeOf_append i n
  exact ⟨hdefined (.push n), hdefined .add, hdefined .sub, hdefined .mul, hdefined .div, hdefined (.dup n), hdefined .dump,
    hdefined .print, hdefined (.jmp n), hdefined .eq, hdefined (.jnz n), hdefined .halt, hdefined .blind, hdefined .neq,
    fun _ h => decode_illegal_append h n⟩

/-- Settles O4: the ten codes are codes of kinds without an operand. -/
theorem operandFieldIgnored : Obligations.OperandFieldIgnored := by
  intro c hc
  have hcodes : ∀ c ∈ [1#8, 2#8, 3#8, 4#8, 6#8, 7#8, 9#8, 11#8, 12#8, 13#8],
      c.toNat < 14 ∧ c ∉ operandCodes := by decide
  obtain ⟨hdefined, hnone⟩ := hcodes c hc
  obtain ⟨i, rfl⟩ := exists_opcodeOf_eq hdefined
  refine ⟨i, fun n => ?_, ?_⟩
  · rw [decode_opcodeOf_append, withOperand_eq_self hnone]
  · rw [encode, operandOf_eq_zero hnone]

/-- Settles O5. -/
theorem decodeLosesOnlyIgnoredBits : Obligations.DecodeLosesOnlyIgnoredBits := by
  intro w i h
  obtain ⟨j, n, rfl, rfl⟩ := decode_eq_instr h
  rw [opcodeField_append]
  refine ⟨(opcodeOf_withOperand j n).symm, fun hoperand => ?_⟩
  rw [encode, opcodeOf_withOperand, operandOf_withOperand hoperand]

/-- Settles O1, by evaluating the decoder on each word. -/
theorem writtenWordsDecode : Obligations.WrittenWordsDecode := by
  unfold Obligations.WrittenWordsDecode
  decide

end Sys2Proof
end

section
/-! PROOFS. The image format (30_encoding.md rules R100 to R106). An image is text, text is bits, and bits are words; each
reading is the inverse of its writing, so `readImage text = some ws` says no more than `text = writeWords ws`. -/

namespace Sys2Proof.Machine

/-! ### Text and bits -/

theorem charBit_eq_some_iff (c : Byte) (b : Bool) : charBit c = some b ↔ c = bitChar b := by
  unfold charBit bitChar
  cases b <;> split_ifs <;> simp_all

/-- R103: the characters that stand for no bit. -/
theorem charBit_eq_none_iff (c : Byte) : charBit c = none ↔ c ≠ 0x30#8 ∧ c ≠ 0x31#8 := by
  unfold charBit
  split_ifs <;> simp_all

theorem textBits_cons_eq_some_iff {c : Byte} {cs : List Byte} {bs : List Bool} :
    textBits (c :: cs) = some bs ↔ ∃ b bs', charBit c = some b ∧ textBits cs = some bs' ∧ bs = b :: bs' := by
  rw [textBits]
  cases charBit c <;> cases textBits cs <;> simp [eq_comm]

/-- R100: a text's bits are those whose characters it holds. -/
theorem textBits_eq_some_iff (text : List Byte) (bs : List Bool) : textBits text = some bs ↔ text = bs.map bitChar := by
  induction text generalizing bs with
  | nil => cases bs <;> simp [textBits]
  | cons c cs ih =>
    simp only [textBits_cons_eq_some_iff, charBit_eq_some_iff, ih]
    cases bs <;> simp

theorem textBits_eq_none_iff (text : List Byte) : textBits text = none ↔ ∃ c ∈ text, c ≠ 0x30#8 ∧ c ≠ 0x31#8 := by
  simp only [← charBit_eq_none_iff]
  induction text with
  | nil => simp [textBits]
  | cons c cs ih =>
    rw [List.exists_mem_cons_iff, ← ih, textBits]
    cases charBit c <;> cases textBits cs <;> simp

/-! ### Bits and numbers -/

theorem bitsValue_concat (bs : List Bool) (b : Bool) : bitsValue (bs ++ [b]) = Nat.bit b (bitsValue bs) := by
  rw [bitsValue, List.foldl_concat, Nat.bit_val, bitsValue]

theorem bitsValue_append (as bs : List Bool) : bitsValue (as ++ bs) = bitsValue as * 2 ^ bs.length + bitsValue bs := by
  induction bs using List.reverseRecOn with
  | nil => simp [bitsValue]
  | append_singleton bs b ih =>
    rw [← List.append_assoc, bitsValue_concat, bitsValue_concat, ih]
    simp only [Nat.bit_val, List.length_append, List.length_singleton, pow_succ]
    ring

theorem bitsValue_lt (bs : List Bool) : bitsValue bs < 2 ^ bs.length := by
  induction bs using List.reverseRecOn with
  | nil => simp [bitsValue]
  | append_singleton bs b ih =>
    rw [bitsValue_concat, List.length_append, List.length_singleton, pow_succ, Nat.bit_val]
    have := b.toNat_lt
    omega

/-- The bits of a value, least significant first, are the string read backwards. -/
theorem testBit_bitsValue (bs : List Bool) (i : Nat) : (bitsValue bs).testBit i = bs.reverse[i]?.getD false := by
  induction bs using List.reverseRecOn generalizing i with
  | nil => simp [bitsValue]
  | append_singleton bs b ih =>
    rw [bitsValue_concat, List.reverse_append]
    cases i with
    | zero => simp
    | succ i => simp [Nat.testBit_bit_succ, ih]

/-- A string of bits cut in two is the two words one after the other. -/
theorem ofNat_bitsValue_append {m : Nat} (n : Nat) (as : List Bool) {bs : List Bool} (h : bs.length = m) :
    BitVec.ofNat n (bitsValue as) ++ BitVec.ofNat m (bitsValue bs) = BitVec.ofNat (n + m) (bitsValue (as ++ bs)) := by
  have hlt := h ▸ bitsValue_lt bs
  refine BitVec.eq_of_getLsbD_eq fun i hi => ?_
  rw [BitVec.getLsbD_append, bitsValue_append, h, mul_comm, BitVec.getLsbD_ofNat, BitVec.getLsbD_ofNat, BitVec.getLsbD_ofNat,
    Nat.testBit_two_pow_mul_add _ hlt]
  split_ifs with hlow
  · simp [hlow, hi]
  · have hhigh : i - m < n := by omega
    simp [hhigh, hi]

/-! ### Records and words -/

/-- The 72 bits of a word, W[71] first (R100). -/
def recordBits (w : InsnWord) : List Bool := (List.range 72).map fun i => w.getLsbD (71 - i)

theorem writeRecord_eq (w : InsnWord) : writeRecord w = (recordBits w).map bitChar := by
  simp [writeRecord, recordBits, Function.comp_def]

@[simp] theorem recordBits_length (w : InsnWord) : (recordBits w).length = 72 := by simp [recordBits]

theorem getLsbD_recordWord {bs : List Bool} (h : bs.length = 72) {i : Nat} (hi : i < 72) :
    (recordWord bs).getLsbD (71 - i) = bs[i] := by
  have hlow : 71 - i < 72 := by omega
  have hindex : 71 - (71 - i) = i := by omega
  rw [recordWord, BitVec.getLsbD_ofNat, testBit_bitsValue, List.getElem?_reverse (by omega)]
  simp [h, hlow, hindex, hi]

theorem recordBits_recordWord {bs : List Bool} (h : bs.length = 72) : recordBits (recordWord bs) = bs := by
  refine List.ext_getElem (by simp [h]) fun i hi _ => ?_
  simp only [recordBits, List.getElem_map, List.getElem_range]
  exact getLsbD_recordWord h (by simpa using hi)

theorem recordWord_recordBits (w : InsnWord) : recordWord (recordBits w) = w := by
  refine BitVec.eq_of_getLsbD_eq fun i hi => ?_
  have hindex : 71 - (71 - i) = i := by omega
  have hbit := getLsbD_recordWord (recordBits_length w) (i := 71 - i) (by omega)
  simpa [recordBits, hindex] using hbit

theorem cutRecords_flatMap_recordBits (ws : List InsnWord) : cutRecords ws.length (ws.flatMap recordBits) = ws := by
  induction ws with
  | nil => rfl
  | cons w ws ih =>
    simp [cutRecords, ih, recordWord_recordBits]

theorem flatMap_recordBits_cutRecords {n : Nat} {bs : List Bool} (h : bs.length = 72 * n) :
    (cutRecords n bs).flatMap recordBits = bs := by
  induction n generalizing bs with
  | zero => simpa [cutRecords, eq_comm] using h
  | succ n ih =>
    have hfirst : (bs.take 72).length = 72 := by rw [List.length_take]; omega
    have hrest : (bs.drop 72).length = 72 * n := by rw [List.length_drop]; omega
    rw [cutRecords, List.flatMap_cons, recordBits_recordWord hfirst, ih hrest, List.take_append_drop]

/-! ### Images -/

theorem writeWords_eq (ws : List InsnWord) : writeWords ws = (ws.flatMap recordBits).map bitChar := by
  rw [writeWords, List.map_flatMap]
  exact congrArg (List.flatMap · ws) (funext writeRecord_eq)

@[simp] theorem writeRecord_length (w : InsnWord) : (writeRecord w).length = 72 := by simp [writeRecord]

@[simp] theorem writeWords_length (ws : List InsnWord) : (writeWords ws).length = 72 * ws.length := by
  simp [writeWords, List.length_flatMap, mul_comm]

/-- R100, R102: character i of record j. -/
theorem writeWords_getElem? {ws : List InsnWord} {j i : Nat} {w : InsnWord} (hw : ws[j]? = some w) (hi : i < 72) :
    (writeWords ws)[72 * j + i]? = some (if w.getLsbD (71 - i) then 0x31#8 else 0x30#8) := by
  induction ws generalizing j with
  | nil => simp at hw
  | cons v ws ih =>
    rw [writeWords, List.flatMap_cons]
    cases j with
    | zero =>
      obtain rfl : v = w := by simpa using hw
      rw [List.getElem?_append_left (by simpa using hi)]
      simp [writeRecord, bitChar, hi]
    | succ j =>
      have hskip : 72 * (j + 1) + i = (writeRecord v).length + (72 * j + i) := by rw [writeRecord_length]; ring
      rw [hskip, List.getElem?_append_right (Nat.le_add_right _ _), Nat.add_sub_cancel_left]
      exact ih (by simpa using hw)

/-- R103, R106: the words read from a text are those whose image it is. -/
theorem readImage_eq_some_iff (text : List Byte) (ws : List InsnWord) : readImage text = some ws ↔ text = writeWords ws := by
  unfold readImage
  constructor
  · intro h
    split_ifs at h with hlength
    obtain ⟨bs, hbs, rfl⟩ := Option.map_eq_some_iff.mp h
    obtain rfl := (textBits_eq_some_iff text bs).mp hbs
    rw [List.length_map] at hlength ⊢
    rw [writeWords_eq, flatMap_recordBits_cutRecords (by omega)]
  · rintro rfl
    have hbits : textBits (writeWords ws) = some (ws.flatMap recordBits) :=
      (textBits_eq_some_iff _ _).mpr (writeWords_eq ws)
    simp [hbits, cutRecords_flatMap_recordBits]

theorem readImage_eq_none_iff (text : List Byte) :
    readImage text = none ↔ text.length % 72 ≠ 0 ∨ ∃ c ∈ text, c ≠ 0x30#8 ∧ c ≠ 0x31#8 := by
  rw [← textBits_eq_none_iff, readImage]
  split_ifs with hlength <;> simp [hlength]

theorem readImage_writeImage (p : List Instr) : readImage (writeImage p) = some (p.map encode) :=
  (readImage_eq_some_iff _ _).mpr rfl

/-! ### Loading an image -/

/-- R105. -/
theorem loadImage_malformed {s : State} (h : s.acceptsLoad = true) {text : List Byte} (htext : readImage text = none)
    (depth : Word) : s.loadImage depth text = s.loadFault .malformedImage := by
  simp [State.loadImage, h, htext]

/-- R105: whatever the status, since load is refused where loadImage is. -/
theorem loadImage_read {text : List Byte} {ws : List InsnWord} (h : readImage text = some ws) (depth : Word) (s : State) :
    s.loadImage depth text = s.load depth ws := by
  cases hs : s.acceptsLoad with
  | false => rw [loadImage_refused depth hs, load_refused depth hs]
  | true => simp [State.loadImage, hs, h]

/-! ### The record by chunks -/

/-- The operand field read so far, followed by the next chunk of eight bits. -/
theorem ofNat_bitsValue_append_chunk {bs : List Bool} {a n : Nat} (h : a + n + 8 ≤ bs.length) :
    BitVec.ofNat n (bitsValue ((bs.drop a).take n)) ++ BitVec.ofNat 8 (bitsValue ((bs.drop (a + n)).take 8)) =
      BitVec.ofNat (n + 8) (bitsValue ((bs.drop a).take (n + 8))) := by
  have hchunk : ((bs.drop (a + n)).take 8).length = 8 := by
    rw [List.length_take, List.length_drop]
    omega
  rw [ofNat_bitsValue_append n _ hchunk, List.take_add, List.drop_drop]

/-! ### The record by fields -/

theorem bitsValue_binaryDigits {fuel n : Nat} (h : n < 2 ^ (fuel + 1)) : bitsValue (binaryDigits fuel n) = n := by
  induction fuel generalizing n with
  | zero =>
    have hn : n = 0 ∨ n = 1 := by omega
    rcases hn with rfl | rfl <;> rfl
  | succ fuel ih =>
    rw [binaryDigits]
    split_ifs with hsmall
    · have hn : n = 0 ∨ n = 1 := by omega
      rcases hn with rfl | rfl <;> rfl
    · rw [bitsValue_concat, ih (by rw [pow_succ] at h; omega), Nat.bit_val]
      have hparity : (n % 2 == 1).toNat = n % 2 := by rcases Nat.mod_two_eq_zero_or_one n with h | h <;> simp [h]
      omega

theorem binaryDigits_length_pos (fuel n : Nat) : 0 < (binaryDigits fuel n).length := by
  cases fuel with
  | zero => exact Nat.one_pos
  | succ fuel =>
    rw [binaryDigits]
    split_ifs <;> simp

theorem binaryDigits_length_le (fuel n : Nat) : (binaryDigits fuel n).length ≤ fuel + 1 := by
  induction fuel generalizing n with
  | zero => exact le_rfl
  | succ fuel ih =>
    have := ih (n / 2)
    rw [binaryDigits]
    split_ifs
    · simp
    · simpa using this

theorem padLeft_length {m : Nat} {ds : List Bool} (hpos : 0 < ds.length) (hle : ds.length ≤ m) : (padLeft m ds).length = m := by
  rw [padLeft, List.length_append, List.length_replicate]
  rcases hle.eq_or_lt with heq | hlt
  · simp [heq]
  · rw [Nat.mod_eq_of_lt hlt, Nat.mod_eq_of_lt (by omega)]
    omega

theorem bitsValue_replicate_false (k : Nat) : bitsValue (List.replicate k false) = 0 := by
  induction k with
  | zero => rfl
  | succ k ih =>
    rw [List.replicate_succ', bitsValue_concat, ih]
    rfl

/-- Zeros put before a string of bits add nothing to its value. -/
theorem bitsValue_padLeft (m : Nat) (ds : List Bool) : bitsValue (padLeft m ds) = bitsValue ds := by
  rw [padLeft, bitsValue_append, bitsValue_replicate_false, Nat.zero_mul, Nat.zero_add]

/-- R101: a field of fuel + 1 bits, written out and padded, has exactly that many digits. -/
theorem padded_field_length (fuel n : Nat) : (padLeft (fuel + 1) (binaryDigits fuel n)).length = fuel + 1 :=
  padLeft_length (binaryDigits_length_pos fuel n) (binaryDigits_length_le fuel n)

theorem ofNat_padded_field {fuel : Nat} (x : BitVec (fuel + 1)) :
    BitVec.ofNat (fuel + 1) (bitsValue (padLeft (fuel + 1) (binaryDigits fuel x.toNat))) = x := by
  rw [bitsValue_padLeft, bitsValue_binaryDigits x.isLt]
  simp

/-! ### The obligations -/

/-- Settles O8. -/
theorem imageRoundTrip : Obligations.ImageRoundTrip := fun p => by
  rw [decodeImage, readImage_writeImage, Option.bind_some, decodeAll_encode]

/-- Settles O6. -/
theorem imageIsRecordsInOrder : Obligations.ImageIsRecordsInOrder :=
  fun p => ⟨by simp [writeImage], fun j i x hx hi => writeWords_getElem? (by simp [hx]) hi⟩

/-- Settles O7: a text that is read is the image of the words it yields. -/
theorem readImageFailsOrYieldsWords : Obligations.ReadImageFailsOrYieldsWords := by
  refine fun text => ⟨readImage_eq_none_iff text, fun ws h => ?_⟩
  obtain rfl := (readImage_eq_some_iff text ws).mp h
  exact ⟨by simp, fun j i w hw hi => writeWords_getElem? hw hi⟩

/-- Settles O9: the two padded fields are 72 bits whose word is `encode i`, and only one string of 72 bits has that word. -/
theorem paddedFieldsFormRecord : Obligations.PaddedFieldsFormRecord := by
  intro i
  have hcode := padded_field_length 7 (opcodeOf i).toNat
  have hoperand := padded_field_length 63 (operandOf i).toNat
  have hword : recordWord (padLeft 8 (binaryDigits 7 (opcodeOf i).toNat) ++ padLeft 64 (binaryDigits 63 (operandOf i).toNat)) =
      encode i :=
    (ofNat_bitsValue_append 8 _ hoperand).symm.trans (congrArg₂ (· ++ ·) (ofNat_padded_field _) (ofNat_padded_field _))
  refine ⟨hcode, hoperand, ?_⟩
  rw [writeRecordByFields, writeRecord_eq, ← hword, recordBits_recordWord (by rw [List.length_append, hcode, hoperand])]

/-- Settles O20. -/
theorem loadImageReadsThenLoads : Obligations.LoadImageReadsThenLoads := by
  refine fun depth text s => ⟨fun hstatus => ⟨fun htext => ?_, fun ws htext => loadImage_read htext depth s⟩, ?_⟩
  · exact loadImage_malformed ((acceptsLoad_iff s).mpr hstatus) htext depth
  · exact fun hidle hended => loadImage_refused depth (acceptsLoad_eq_false hidle hended) text

/-- Settles O10: the operand field is put together chunk by chunk, then set behind the opcode field. -/
theorem chunkedReaderAgrees : Obligations.ChunkedReaderAgrees := by
  intro bs h
  have hchunk (n : Nat) (hn : n ≤ 56) := ofNat_bitsValue_append_chunk (bs := bs) (a := 8) (n := n) (by omega)
  have hoperand : ((bs.drop 8).take 64).length = 64 := by
    rw [List.length_take, List.length_drop]
    omega
  have hwhole : bs.take 8 ++ (bs.drop 8).take 64 = bs := by
    rw [← List.take_add, List.take_of_length_le h.le]
  have hword := ofNat_bitsValue_append 8 (bs.take 8) hoperand
  rw [hwhole] at hword
  refine Eq.trans ?_ hword
  unfold recordWordByChunks
  refine congrArg (BitVec.ofNat 8 (bitsValue (bs.take 8)) ++ ·) ?_
  simp only [Nat.mul_one]
  rw [hchunk 8 (by decide), hchunk 16 (by decide), hchunk 24 (by decide), hchunk 32 (by decide), hchunk 40 (by decide),
    hchunk 48 (by decide), hchunk 56 (by decide)]

end Sys2Proof.Machine
end

section
/-! PROOFS. The assembler (30_encoding.md rules R107 to R114): what an operand token is, what a line's tokens give, which line
is reported, and that the printed form is read back. -/

namespace Sys2Proof.Machine

/-! ### Operand tokens -/

/-- An ASCII digit (R110). -/
def IsDigit (c : Char) : Prop := 48 ≤ c.toNat ∧ c.toNat ≤ 57

/-- The value of a string of digits, on from the value `acc`. -/
def digitsValue (acc : Nat) (t : List Char) : Nat := t.foldl (fun v c => 10 * v + (c.toNat - 48)) acc

theorem digitValue_eq_some_iff (c : Char) (d : Nat) : digitValue c = some d ↔ IsDigit c ∧ c.toNat - 48 = d := by
  simp [digitValue, IsDigit]

theorem decimalFrom_cons_eq_some_iff (acc v : Nat) (c : Char) (t : List Char) :
    decimalFrom acc (c :: t) = some v ↔ IsDigit c ∧ decimalFrom (10 * acc + (c.toNat - 48)) t = some v := by
  rw [decimalFrom]
  by_cases hc : IsDigit c
  · simp [(digitValue_eq_some_iff c _).mpr ⟨hc, rfl⟩, hc]
  · have hnone : digitValue c = none := if_neg hc
    simp [hnone, hc]

theorem decimalFrom_eq_some_iff (acc v : Nat) (t : List Char) :
    decimalFrom acc t = some v ↔ (∀ c ∈ t, IsDigit c) ∧ digitsValue acc t = v := by
  induction t generalizing acc with
  | nil => simp [decimalFrom, digitsValue]
  | cons c t ih => rw [decimalFrom_cons_eq_some_iff, ih, List.forall_mem_cons, and_assoc]; rfl

/-- R110. -/
theorem parseOperand_eq_some_iff (t : List Char) (n : Word) :
    parseOperand t = some n ↔ t ≠ [] ∧ (∀ c ∈ t, IsDigit c) ∧ digitsValue 0 t = n.toNat := by
  rw [← decimalFrom_eq_some_iff]
  cases t with
  | nil => simp [parseOperand]
  | cons c t =>
    rw [parseOperand]
    cases decimalFrom 0 (c :: t) with
    | none => simp
    | some v =>
      change (if v < 2 ^ 64 then some (BitVec.ofNat 64 v) else none) = some n ↔ _
      split_ifs with hv
      · simp only [← BitVec.toNat_inj, BitVec.toNat_ofNat, Nat.mod_eq_of_lt hv, Option.some_inj, ne_eq, reduceCtorEq,
          not_false_eq_true, true_and]
      · have hne : v ≠ n.toNat := fun h => hv (h ▸ n.isLt)
        simp [hne]

/-! ### Operands in decimal -/

theorem isDigit_digitChar {d : Nat} (h : d < 10) : IsDigit (digitChar d) ∧ (digitChar d).toNat - 48 = d := by
  unfold IsDigit
  revert d
  decide

theorem decimalDigits_ne_nil (fuel n : Nat) (acc : List Char) : decimalDigits fuel n acc ≠ [] := by
  induction fuel generalizing n acc with
  | zero => exact List.cons_ne_nil _ _
  | succ fuel ih =>
    rw [decimalDigits]
    split_ifs
    · exact List.cons_ne_nil _ _
    · exact ih _ _

theorem isDigit_of_mem_digitChar_cons {d : Nat} (hd : d < 10) {acc : List Char} (h : ∀ c ∈ acc, IsDigit c) :
    ∀ c ∈ digitChar d :: acc, IsDigit c :=
  List.forall_mem_cons.mpr ⟨(isDigit_digitChar hd).1, h⟩

theorem isDigit_of_mem_decimalDigits {fuel n : Nat} {acc : List Char} (h : ∀ c ∈ acc, IsDigit c) :
    ∀ c ∈ decimalDigits fuel n acc, IsDigit c := by
  have hmod (k : Nat) : k % 10 < 10 := Nat.mod_lt k (by decide)
  induction fuel generalizing n acc with
  | zero => exact isDigit_of_mem_digitChar_cons (hmod n) h
  | succ fuel ih =>
    rw [decimalDigits]
    split_ifs with hn
    · exact isDigit_of_mem_digitChar_cons hn h
    · exact ih (isDigit_of_mem_digitChar_cons (hmod n) h)

theorem digitsValue_digitChar_cons {d : Nat} (h : d < 10) (v : Nat) (acc : List Char) :
    digitsValue v (digitChar d :: acc) = digitsValue (10 * v + d) acc := by
  rw [digitsValue, List.foldl_cons, (isDigit_digitChar h).2]
  rfl

/-- The digits of `n` put before `acc` read as `acc` reads on from `n`. -/
theorem digitsValue_decimalDigits {fuel n : Nat} (h : n < 10 ^ (fuel + 1)) (acc : List Char) :
    digitsValue 0 (decimalDigits fuel n acc) = digitsValue n acc := by
  induction fuel generalizing n acc with
  | zero =>
    rw [decimalDigits, Nat.mod_eq_of_lt (by simpa using h), digitsValue_digitChar_cons (by simpa using h)]
    simp
  | succ fuel ih =>
    rw [decimalDigits]
    split_ifs with hn
    · rw [digitsValue_digitChar_cons hn]
      simp
    · rw [ih (by rw [pow_succ] at h; omega), digitsValue_digitChar_cons (Nat.mod_lt _ (by decide)), Nat.div_add_mod]

theorem isDigit_of_mem_printOperand (n : Word) : ∀ c ∈ printOperand n, IsDigit c :=
  isDigit_of_mem_decimalDigits fun _ h => absurd h List.not_mem_nil

theorem parseOperand_printOperand (n : Word) : parseOperand (printOperand n) = some n :=
  (parseOperand_eq_some_iff _ _).mpr
    ⟨decimalDigits_ne_nil _ _ _, isDigit_of_mem_printOperand n, digitsValue_decimalDigits (by have := n.isLt; omega) []⟩

/-! ### The tokens of a line -/

/-- A character of ASCII above space. -/
def IsGraphic (c : Char) : Prop := 33 ≤ c.toNat ∧ c.toNat < 128

theorem IsGraphic.isBlank_eq_false {c : Char} (h : IsGraphic c) : isBlank c = false := by
  obtain ⟨hlow, hascii⟩ := h
  have hspace : c ≠ ' ' := by
    rintro rfl
    exact absurd hlow (by decide)
  have hcontrol : ¬ c.toNat ≤ 13 := by omega
  simp [isBlank, hascii, hspace, hcontrol]

theorem IsDigit.isGraphic {c : Char} (h : IsDigit c) : IsGraphic c :=
  ⟨Nat.le_trans (by decide) h.1, Nat.lt_of_le_of_lt h.2 (by decide)⟩

/-- A token of the printed form: not empty, and all of it graphic. -/
def IsToken (t : List Char) : Prop := t ≠ [] ∧ ∀ c ∈ t, IsGraphic c

theorem IsToken.newline_not_mem {t : List Char} (h : IsToken t) : '\n' ∉ t :=
  fun hmem => absurd (h.2 _ hmem).1 (by decide)

theorem tokensFrom_append {t : List Char} (h : ∀ c ∈ t, IsGraphic c) (cur rest : List Char) :
    tokensFrom cur (t ++ rest) = tokensFrom (t.reverse ++ cur) rest := by
  induction t generalizing cur with
  | nil => rfl
  | cons c t ih =>
    obtain ⟨hc, ht⟩ := List.forall_mem_cons.mp h
    simp [tokensFrom, hc.isBlank_eq_false, ih ht]

theorem tokens_token {t : List Char} (h : IsToken t) : tokens t = [t] := by
  obtain ⟨hne, hgraphic⟩ := h
  have hread := tokensFrom_append hgraphic [] []
  simpa [tokens, tokensFrom, hne] using hread

theorem tokens_token_space {t : List Char} (h : IsToken t) (rest : List Char) : tokens (t ++ ' ' :: rest) = t :: tokens rest := by
  obtain ⟨hne, hgraphic⟩ := h
  have hspace : isBlank ' ' = true := by decide
  rw [tokens, tokensFrom_append hgraphic]
  simp [tokensFrom, tokens, hspace, hne]

theorem isToken_printOperand (n : Word) : IsToken (printOperand n) :=
  ⟨decimalDigits_ne_nil _ _ _, fun c hc => (isDigit_of_mem_printOperand n c hc).isGraphic⟩

/-! ### What the tokens of a line give -/

/-- The mnemonic of an instruction's kind (R108, R110). -/
def mnemonicOf : Instr → List Char
  | .push _ => "push".toList
  | .add => "add".toList
  | .sub => "sub".toList
  | .mul => "mul".toList
  | .div => "div".toList
  | .dup _ => "dup".toList
  | .dump => "dump".toList
  | .print => "print".toList
  | .jmp _ => "jmp".toList
  | .eq => "eq".toList
  | .jnz _ => "jnz".toList
  | .halt => "halt".toList
  | .blind => "blind".toList
  | .neq => "neq".toList

/-- The mnemonics of the 14 kinds. -/
def mnemonics : List (List Char) :=
  ["push".toList, "add".toList, "sub".toList, "mul".toList, "div".toList, "dup".toList, "dump".toList, "print".toList,
    "jmp".toList, "eq".toList, "jnz".toList, "halt".toList, "blind".toList, "neq".toList]

theorem isToken_mnemonicOf (i : Instr) : IsToken (mnemonicOf i) := by
  have hall : (mnemonicOf i).all (fun c => decide (33 ≤ c.toNat ∧ c.toNat < 128)) = true := by cases i <;> rfl
  have hne : mnemonicOf i ≠ [] := by cases i <;> exact List.cons_ne_nil _ _
  exact ⟨hne, by simpa [IsGraphic] using hall⟩

/-- R108: further tokens are ignored. -/
theorem assembleTokens_noOperand {i : Instr} (h : opcodeOf i ∉ operandCodes) (rest : List (List Char)) :
    assembleTokens (mnemonicOf i :: rest) = .instr i := by
  cases i with
  | push | dup | jmp | jnz => exact absurd (by simp [opcodeOf, operandCodes]) h
  | _ => rfl

/-- R109, R110: the further tokens hold the operand. -/
theorem assembleTokens_operand {i : Instr} (h : opcodeOf i ∈ operandCodes) (rest : List (List Char)) :
    assembleTokens (mnemonicOf i :: rest) = operandLine i.withOperand rest := by
  cases i with
  | push | dup | jmp | jnz => rfl
  | _ => exact absurd h (by decide)

theorem assembleTokens_unknown {m : List Char} (h : m ∉ mnemonics) (rest : List (List Char)) :
    assembleTokens (m :: rest) = .bad := by
  simp only [mnemonics, List.mem_cons, List.not_mem_nil, or_false, not_or] at h
  obtain ⟨hpush, hadd, hsub, hmul, hdiv, hdup, hdump, hprint, hjmp, heq, hjnz, hhalt, hblind, hneq⟩ := h
  rw [assembleTokens, if_neg hpush, if_neg hadd, if_neg hsub, if_neg hmul, if_neg hdiv, if_neg hdup, if_neg hdump,
    if_neg hprint, if_neg hjmp, if_neg heq, if_neg hjnz, if_neg hhalt, if_neg hblind, if_neg hneq]

theorem operandLine_parsed {t : List Char} {n : Word} (h : parseOperand t = some n) (mk : Word → Instr)
    (rest : List (List Char)) : operandLine mk (t :: rest) = .instr (mk n) := by
  simp [operandLine, h]

theorem operandLine_unparsed {t : List Char} (h : parseOperand t = none) (mk : Word → Instr) (rest : List (List Char)) :
    operandLine mk (t :: rest) = .bad := by
  simp [operandLine, h]

/-! ### The printed form -/

theorem printInstr_noOperand {i : Instr} (h : opcodeOf i ∉ operandCodes) : printInstr i = mnemonicOf i := by
  cases i with
  | push | dup | jmp | jnz => exact absurd (by simp [opcodeOf, operandCodes]) h
  | _ => rfl

theorem printInstr_operand {i : Instr} (h : opcodeOf i ∈ operandCodes) :
    printInstr i = mnemonicOf i ++ ' ' :: printOperand (operandOf i) := by
  cases i with
  | push | dup | jmp | jnz => rfl
  | _ => exact absurd h (by decide)

theorem withOperand_operandOf (i : Instr) : i.withOperand (operandOf i) = i := by cases i <;> rfl

/-- R114: the line of a printed instruction is that instruction. -/
theorem assembleTokens_printInstr (i : Instr) : assembleTokens (tokens (printInstr i)) = .instr i := by
  have hmnemonic := isToken_mnemonicOf i
  by_cases hoperand : opcodeOf i ∈ operandCodes
  · rw [printInstr_operand hoperand, tokens_token_space hmnemonic, tokens_token (isToken_printOperand _),
      assembleTokens_operand hoperand, operandLine_parsed (parseOperand_printOperand _), withOperand_operandOf]
  · rw [printInstr_noOperand hoperand, tokens_token hmnemonic, assembleTokens_noOperand hoperand]

theorem newline_not_mem_printInstr (i : Instr) : '\n' ∉ printInstr i := by
  have hmnemonic := (isToken_mnemonicOf i).newline_not_mem
  by_cases hoperand : opcodeOf i ∈ operandCodes
  · rw [printInstr_operand hoperand]
    simp [hmnemonic, (isToken_printOperand _).newline_not_mem]
  · rwa [printInstr_noOperand hoperand]

/-! ### Lines -/

/-- Whether a line is bad (R108, R110, R111). -/
def lineBad (l : List Char) : Bool := assembleTokens (tokens l) == .bad

/-- The instruction of a line, if it is one. -/
def lineInstr (l : List Char) : Option Instr :=
  match assembleTokens (tokens l) with
  | .instr i => some i
  | _ => none

/-- R111: an assembly gives the instructions of its lines in order, or the number of its first bad line. -/
theorem assembleLines_eq (n : Nat) (ls : List (List Char)) :
    assembleLines n ls =
      (ls.findIdx? lineBad).elim (.program (ls.filterMap lineInstr)) (fun k => .syntaxError (n + k)) := by
  induction ls generalizing n with
  | nil => rfl
  | cons l ls ih =>
    rw [assembleLines, List.findIdx?_cons, List.filterMap_cons, lineBad, lineInstr, ih]
    cases assembleTokens (tokens l) with
    | bad => simp
    | skipped => cases ls.findIdx? lineBad <;> simp [Nat.add_assoc, Nat.add_comm 1]
    | instr i => cases ls.findIdx? lineBad <;> simp [Nat.add_assoc, Nat.add_comm 1]

theorem lineBad_iff (l : List Char) : lineBad l = true ↔ assembleTokens (tokens l) = .bad := by simp [lineBad]

theorem assemble_eq_syntaxError_iff (text : List Char) (k : Nat) :
    assemble text = .syntaxError k ↔ (splitLines text).findIdx? lineBad = some k := by
  rw [assemble, assembleLines_eq]
  cases (splitLines text).findIdx? lineBad <;> simp

theorem assemble_eq_program {text : List Char} (h : ∀ l ∈ splitLines text, lineBad l = false) :
    assemble text = .program ((splitLines text).filterMap lineInstr) := by
  rw [assemble, assembleLines_eq, List.findIdx?_eq_none_iff.mpr h]
  rfl

theorem compile_syntaxError {text : List Char} {k : Nat} (h : assemble text = .syntaxError k) :
    compile text = .failed 101#64 k := by
  simp [compile, h, Config.exitLoad]

theorem compile_program {text : List Char} {p : List Instr} (h : assemble text = .program p) :
    compile text = .image (writeImage p) := by
  simp [compile, h]

@[simp] theorem lineBad_nil : lineBad [] = false := rfl

@[simp] theorem lineInstr_nil : lineInstr [] = none := rfl

@[simp] theorem lineBad_printInstr (i : Instr) : lineBad (printInstr i) = false := by
  simp [lineBad, assembleTokens_printInstr]

@[simp] theorem lineInstr_printInstr (i : Instr) : lineInstr (printInstr i) = some i := by
  simp [lineInstr, assembleTokens_printInstr]

theorem splitLines_line {l : List Char} (h : '\n' ∉ l) : splitLines l = [l] := by
  induction l with
  | nil => rfl
  | cons c l ih =>
    obtain ⟨hc, hl⟩ := List.ne_and_not_mem_of_not_mem_cons h
    rw [splitLines, if_neg hc.symm, ih hl]

theorem splitLines_append_newline {l : List Char} (h : '\n' ∉ l) (rest : List Char) :
    splitLines (l ++ '\n' :: rest) = l :: splitLines rest := by
  induction l with
  | nil => simp [splitLines]
  | cons c l ih =>
    obtain ⟨hc, hl⟩ := List.ne_and_not_mem_of_not_mem_cons h
    rw [List.cons_append, splitLines, if_neg hc.symm, ih hl]

/-- The last line feed begins one more line, which is empty. -/
theorem splitLines_printProgram (p : List Instr) : splitLines (printProgram p) = p.map printInstr ++ [[]] := by
  induction p with
  | nil => rfl
  | cons i p ih =>
    rw [printProgram, List.flatMap_cons, List.append_assoc]
    exact (splitLines_append_newline (newline_not_mem_printInstr i) _).trans (congrArg (printInstr i :: ·) ih)

theorem assemble_printInstr (i : Instr) : assemble (printInstr i) = .program [i] := by
  have hlines := splitLines_line (newline_not_mem_printInstr i)
  rw [assemble_eq_program (by simp [hlines]), hlines]
  simp

theorem assemble_printProgram (p : List Instr) : assemble (printProgram p) = .program p := by
  have hlines := splitLines_printProgram p
  rw [assemble_eq_program (by simp [hlines, or_imp, forall_and]), hlines]
  simp [List.filterMap_map]

/-! ### The obligations -/

/-- Settles O12. -/
theorem operandTokenIsDecimal : Obligations.OperandTokenIsDecimal := parseOperand_eq_some_iff

/-- Settles O11. -/
theorem mnemonicsSelectInstructions : Obligations.MnemonicsSelectInstructions := by
  have hzero (i : Instr) (h : opcodeOf i ∉ operandCodes) (rest : List (List Char)) :=
    assembleTokens_noOperand h rest
  have hparsed (i : Instr) (h : opcodeOf i ∈ operandCodes) {t : List Char} {n : Word}
      (ht : parseOperand t = some n) (rest : List (List Char)) :
      assembleTokens (mnemonicOf i :: t :: rest) = .instr (i.withOperand n) :=
    (assembleTokens_operand h _).trans (operandLine_parsed ht _ rest)
  have hbad (i : Instr) (h : opcodeOf i ∈ operandCodes) :
      assembleTokens [mnemonicOf i] = .bad ∧
      ∀ t rest, parseOperand t = none → assembleTokens (mnemonicOf i :: t :: rest) = .bad :=
    ⟨assembleTokens_operand h [], fun t rest ht => (assembleTokens_operand h _).trans (operandLine_unparsed ht _ rest)⟩
  refine ⟨fun rest => ?_, fun t n rest ht => ?_, fun m hm => ?_, fun m rest hm => assembleTokens_unknown hm rest⟩
  · exact ⟨hzero .add (by decide) rest, hzero .sub (by decide) rest, hzero .mul (by decide) rest,
      hzero .div (by decide) rest, hzero .dump (by decide) rest, hzero .print (by decide) rest, hzero .eq (by decide) rest,
      hzero .neq (by decide) rest, hzero .halt (by decide) rest, hzero .blind (by decide) rest⟩
  · exact ⟨hparsed (.push 0#64) (by decide) ht rest, hparsed (.dup 0#64) (by decide) ht rest,
      hparsed (.jmp 0#64) (by decide) ht rest, hparsed (.jnz 0#64) (by decide) ht rest⟩
  · simp only [List.mem_cons, List.not_mem_nil, or_false] at hm
    obtain rfl | rfl | rfl | rfl := hm
    · exact hbad (.push 0#64) (by decide)
    · exact hbad (.dup 0#64) (by decide)
    · exact hbad (.jmp 0#64) (by decide)
    · exact hbad (.jnz 0#64) (by decide)

/-- Settles O13: an assembly looks for the first bad line. -/
theorem firstBadLineIsReported : Obligations.FirstBadLineIsReported := by
  refine fun text k => ⟨?_, compile_syntaxError⟩
  rw [assemble_eq_syntaxError_iff, List.findIdx?_eq_some_iff_getElem]
  constructor
  · rintro ⟨hk, hbad, hfirst⟩
    refine ⟨⟨_, List.getElem?_eq_getElem hk, (lineBad_iff _).mp hbad⟩, fun j l hj hl h => ?_⟩
    obtain ⟨_, rfl⟩ := List.getElem?_eq_some_iff.mp hl
    exact hfirst j hj ((lineBad_iff _).mpr h)
  · rintro ⟨⟨l, hl, hbad⟩, hfirst⟩
    obtain ⟨hk, rfl⟩ := List.getElem?_eq_some_iff.mp hl
    exact ⟨hk, (lineBad_iff _).mpr hbad,
      fun j hj h => hfirst j _ hj (List.getElem?_eq_getElem (hj.trans hk)) ((lineBad_iff _).mp h)⟩

/-- Settles O14. -/
theorem printedFormAssembles : Obligations.PrintedFormAssembles := ⟨assemble_printInstr, assemble_printProgram⟩

/-- Settles O15: the image is read back as the encoded program, and a load of it is a direct load (R43). -/
theorem compiledProgramLoads : Obligations.CompiledProgramLoads := by
  refine fun p => ⟨writeImage p, compile_program (assemble_printProgram p), fun depth s => ?_⟩
  obtain ⟨hdirect, -⟩ := loadDirectMatchesLoad depth p s
  rw [loadImage_read (readImage_writeImage p), hdirect]

end Sys2Proof.Machine
end

section
/-! PROOFS. The stack instructions PUSH and DUP (40_stack.md): the checks of each in their order, and the one effect that both
have, a push, with its frame. -/

namespace Sys2Proof.Machine

/-! ### The effect of a push -/

/-- A push of `v` retired: it stands in slot sp, sp and pc are one more, and all else is as before (20_memory.md rule R70). -/
def PushesOne (v : Word) (s t : State) : Prop :=
  t.slot s.sp.toNat = v ∧ SameSlotsBut s.sp.toNat s t ∧ t.sp.toNat = s.sp.toNat + 1 ∧ t.pc = s.pc + 1#64 ∧
  SameControl s t ∧ SameOutput s t

theorem Effect.apply_push_slot (v : Word) (s : State) (j : Nat) :
    ((Effect.push v).apply s).slot j = if s.sp.toNat = j then v else s.slot j :=
  Memory.read_write s.stack s.sp.toNat j v

theorem Effect.apply_push_pushesOne (v : Word) {s : State} (hsp : s.sp.toNat ≤ 2048) :
    PushesOne v s ((Effect.push v).apply s) := by
  refine ⟨?slot, ?others, sp_add_one hsp, rfl, ⟨rfl, rfl, rfl, rfl, rfl⟩, rfl, rfl⟩
  case slot => rw [Effect.apply_push_slot, if_pos rfl]
  case others => exact fun j hj => by rw [Effect.apply_push_slot, if_neg hj.symm]

/-- An instruction whose checks pass and whose effect is a push of `v`. -/
theorem exec_pushesOne {i : Instr} {s : State} {v : Word} (hnone : firstError i s = none) (hpush : effectOf i s = .push v)
    (hsp : s.sp.toNat ≤ 2048) : ∃ t, exec i s = .next t ∧ PushesOne v s t :=
  ⟨_, exec_retires hnone, hpush ▸ Effect.apply_push_pushesOne v hsp⟩

/-! ### The checks of PUSH and DUP -/

/-- PUSH checks the capacity only (R140). -/
theorem firstError_push (n : Word) (s : State) :
    firstError (.push n) s = if s.sp.toNat = 2048 then some .stackOverflow else none := by
  simp [firstError, targetFails, needDepth, capacityFails, valueFails]

/-- DUP checks the depth of the peek before the capacity of the push (R145, R238). -/
theorem firstError_dup (k : Word) (s : State) :
    firstError (.dup k) s =
      if s.sp.toNat ≤ k.toNat then some .stackUnderflow else if s.sp.toNat = 2048 then some .stackOverflow else none := by
  simp [firstError, targetFails, needDepth, capacityFails, valueFails]

/-! ### The obligations -/

/-- Settles O30. -/
theorem pushPushesImmediate : Obligations.PushPushesImmediate := by
  refine fun n s => ⟨rfl, fun hroom => ?_, fun hfull => ?_⟩
  · have hnone : firstError (.push n) s = none := by rw [firstError_push, if_neg hroom.ne]
    exact exec_pushesOne hnone rfl hroom.le
  · exact exec_faults (by rw [firstError_push, if_pos hfull])

/-- Settles O31: a depth that passes the first check leaves the push, which overflows exactly at sp = 2048. -/
theorem dupCopiesElementAtDepth : Obligations.DupCopiesElementAtDepth := by
  refine fun k s => ⟨rfl, fun hk hroom => ?_, fun hdeep => ?_, fun hk hfull => ?_⟩
  · have hnone : firstError (.dup k) s = none := by rw [firstError_dup, if_neg hk.not_ge, if_neg hroom.ne]
    exact exec_pushesOne hnone rfl hroom.le
  · exact exec_faults (by rw [firstError_dup, if_pos hdeep])
  · exact exec_faults (by rw [firstError_dup, if_neg hk.not_ge, if_pos hfull])

end Sys2Proof.Machine
end

section
/-! PROOFS. The arithmetic instructions ADD, SUB, MUL and DIV (41_arith.md): the one effect that every binary operation has, with
its frame, the checks before it, and the result of each as a number. -/

namespace Sys2Proof.Machine

/-! ### The effect of a binary operation -/

theorem Effect.apply_replaceTop2_replacesTopTwo (r : Word) {s : State} (hsp : 2 ≤ s.sp.toNat) :
    ReplacesTopTwo r s ((Effect.replaceTop2 r).apply s) := by
  have hpos : 0 < s.sp.toNat := Nat.zero_lt_of_lt hsp
  refine ⟨?slot, ?others, sp_sub_one (sp_pos.mpr hpos), rfl, ⟨rfl, rfl, rfl, rfl, rfl⟩, rfl, rfl⟩
  case slot => exact (State.slot_replaceTop2 s _ r).trans (if_pos rfl)
  case others => exact fun j hj => (State.slot_replaceTop2 s j r).trans (if_neg hj.symm)

/-- An instruction whose checks pass and whose effect replaces the top two by `r`. -/
theorem exec_replacesTopTwo {i : Instr} {s : State} {r : Word} (hnone : firstError i s = none)
    (hresult : effectOf i s = .replaceTop2 r) : ∃ t, exec i s = .next t ∧ ReplacesTopTwo r s t := by
  have hfit : (Effect.replaceTop2 r).Fits s := hresult ▸ effectOf_fits hnone
  exact ⟨_, exec_retires hnone, hresult ▸ Effect.apply_replaceTop2_replacesTopTwo r hfit⟩

/-! ### The checks of a binary operation -/

/-- The binary operations that check the depth only: all but DIV. -/
def depthCheckedBinary : List Instr := [.add, .sub, .mul, .eq, .neq]

/-- R168: the depth is the only check. -/
theorem firstError_depthCheckedBinary {i : Instr} (hi : i ∈ depthCheckedBinary) (s : State) :
    firstError i s = if s.sp.toNat < 2 then some .stackUnderflow else none := by
  simp only [depthCheckedBinary, List.mem_cons, List.not_mem_nil, or_false] at hi
  rcases hi with rfl | rfl | rfl | rfl | rfl <;> rfl

/-- R168, R238: DIV checks the depth before the two operands. -/
theorem firstError_div (s : State) :
    firstError .div s =
      if s.sp.toNat < 2 then some .stackUnderflow
      else if s.slot (s.sp.toNat - 2) = 0#64 ∨ s.slot (s.sp.toNat - 1) = 0#64 then some .divideByZero else none := by
  simp [firstError, targetFails, needDepth, capacityFails, valueFails]

theorem exec_depthCheckedBinary_retires {i : Instr} {s : State} {r : Word} (hi : i ∈ depthCheckedBinary)
    (hsp : 2 ≤ s.sp.toNat) (hresult : effectOf i s = .replaceTop2 r) :
    ∃ t, exec i s = .next t ∧ ReplacesTopTwo r s t :=
  exec_replacesTopTwo (by rw [firstError_depthCheckedBinary hi, if_neg hsp.not_gt]) hresult

theorem exec_depthCheckedBinary_faults {i : Instr} {s : State} (hi : i ∈ depthCheckedBinary) (hsp : s.sp.toNat < 2) :
    exec i s = .next (faultedAs .stackUnderflow s) :=
  exec_faults (by rw [firstError_depthCheckedBinary hi, if_pos hsp])

/-- The whole of a binary operation that checks the depth only: a property `P` of its result, and the fault of a short stack. -/
theorem exec_depthCheckedBinary {i : Instr} {s : State} {r : Word} {P : Word → Prop} (hi : i ∈ depthCheckedBinary)
    (hresult : effectOf i s = .replaceTop2 r) (hP : P r) :
    (2 ≤ s.sp.toNat → ∃ t r, exec i s = .next t ∧ ReplacesTopTwo r s t ∧ P r) ∧
    (s.sp.toNat < 2 → exec i s = .next (faultedAs .stackUnderflow s)) := by
  refine ⟨fun hsp => ?_, exec_depthCheckedBinary_faults hi⟩
  obtain ⟨t, hexec, hreplaces⟩ := exec_depthCheckedBinary_retires hi hsp hresult
  exact ⟨t, r, hexec, hreplaces, hP⟩

/-! ### The results as numbers -/

theorem aluAdd_toNat (a b : Word) : (aluAdd a b).toNat = (a.toNat + b.toNat) % 2 ^ 64 := by
  rw [aluAdd_eq, BitVec.toNat_add]

/-- R161: the exact difference, which may be negative, modulo 2^64. -/
theorem aluSub_toNat (a b : Word) : ((aluSub a b).toNat : Int) = ((a.toNat : Int) - b.toNat) % 2 ^ 64 := by
  have hnonneg : 0 ≤ ((a.toNat : Int) - b.toNat) % 2 ^ 64 := Int.emod_nonneg _ (by decide)
  rw [aluSub, wrap64, BitVec.toNat_ofInt]
  exact Int.toNat_of_nonneg hnonneg

theorem aluMul_toNat (a b : Word) : (aluMul a b).toNat = a.toNat * b.toNat % 2 ^ 64 := by
  rw [aluMul_eq, BitVec.toNat_mul]

/-- R167: a quotient is at most the dividend, so that it never overflows. -/
theorem quotient_toNat (a b : Word) : (BitVec.ofNat 64 (a.toNat / b.toNat)).toNat = a.toNat / b.toNat := by
  rw [BitVec.toNat_ofNat]
  exact Nat.mod_eq_of_lt ((Nat.div_le_self _ _).trans_lt a.isLt)

/-! ### The obligations -/

/-- Settles O32. -/
theorem addWrapsSum : Obligations.AddWrapsSum :=
  fun _ => ⟨rfl, exec_depthCheckedBinary (by decide) rfl (aluAdd_toNat _ _)⟩

/-- Settles O33. -/
theorem subWrapsDifference : Obligations.SubWrapsDifference :=
  fun _ => ⟨rfl, exec_depthCheckedBinary (by decide) rfl (aluSub_toNat _ _)⟩

/-- Settles O34. -/
theorem mulKeepsLowHalf : Obligations.MulKeepsLowHalf :=
  fun _ => ⟨rfl, exec_depthCheckedBinary (by decide) rfl (aluMul_toNat _ _)⟩

/-- Settles O35: the depth check comes first, then either operand that is zero faults. -/
theorem divTruncatesOrFaultsOnEitherZero : Obligations.DivTruncatesOrFaultsOnEitherZero := by
  refine fun s => ⟨rfl, fun hsp hbelow htop => ?_, fun hsp hzero => ?_, fun hshort => ?_⟩
  · have hnone : firstError .div s = none := by rw [firstError_div, if_neg hsp.not_gt, if_neg (not_or.mpr ⟨hbelow, htop⟩)]
    obtain ⟨t, hexec, hreplaces⟩ := exec_replacesTopTwo hnone rfl
    exact ⟨t, _, hexec, hreplaces, quotient_toNat _ _⟩
  · exact exec_faults (by rw [firstError_div, if_neg hsp.not_gt, if_pos hzero])
  · exact exec_faults (by rw [firstError_div, if_pos hshort])

end Sys2Proof.Machine
end

section
/-! PROOFS. The output instructions DUMP and PRINT (42_output.md): the checks of each, and the one effect that both have, an
emission, with its frame. -/

namespace Sys2Proof.Machine

/-! ### The effect of an emission -/

/-- An emission of `e` retired: `e` is the last event of `out` and stands at the output port, pc is one more, and all else is as
before (10_state.md rule R45). -/
def EmitsEvent (e : OutEvent) (s t : State) : Prop :=
  t.out = s.out ++ [e] ∧ t.offered = some e ∧ SameSlots s t ∧ t.sp = s.sp ∧ t.pc = s.pc + 1#64 ∧ SameControl s t

theorem Effect.apply_emit_emitsEvent (e : OutEvent) (s : State) : EmitsEvent e s ((Effect.emit e).apply s) := by
  refine ⟨rfl, rfl, ?slots, rfl, rfl, ⟨rfl, rfl, rfl, rfl, rfl⟩⟩
  case slots => exact fun j => (State.advance_slot _ j).trans (State.emit_slot s e j)

/-- An instruction whose checks pass and whose effect is an emission of `e`. -/
theorem exec_emitsEvent {i : Instr} {s : State} {e : OutEvent} (hnone : firstError i s = none)
    (hemit : effectOf i s = .emit e) : ∃ t, exec i s = .next t ∧ EmitsEvent e s t :=
  ⟨_, exec_retires hnone, hemit ▸ Effect.apply_emit_emitsEvent e s⟩

/-! ### The checks of DUMP and PRINT -/

/-- DUMP makes no check (R180). -/
theorem firstError_dump (s : State) : firstError .dump s = none :=
  (firstError_eq_none_iff .dump s).mpr ⟨rfl, Nat.zero_le _, rfl, rfl⟩

/-- PRINT checks for an empty stack only (R185). -/
theorem firstError_print (s : State) :
    firstError .print s = if s.sp.toNat = 0 then some .stackUnderflow else none := by
  simp [firstError, targetFails, needDepth, capacityFails, valueFails]

/-! ### The obligations -/

/-- Settles O38: the words of the event are the live elements, which `State.live` lists from slot 0 up. -/
theorem dumpEmitsLiveStack : Obligations.DumpEmitsLiveStack := by
  refine fun s => ⟨rfl, ?_⟩
  obtain ⟨t, hexec, hemits⟩ := exec_emitsEvent (firstError_dump s) rfl
  exact ⟨t, s.live, hexec, live_length s, fun _ => live_getElem?, hemits⟩

/-- Settles O39: the depth check alone decides between the emission and the fault. -/
theorem printEmitsTop : Obligations.PrintEmitsTop := by
  refine fun s => ⟨rfl, fun hpos => ?_, fun hempty => ?_⟩
  · have hnone : firstError .print s = none := by rw [firstError_print, if_neg hpos.ne']
    exact exec_emitsEvent hnone rfl
  · exact exec_faults (by rw [firstError_print, if_pos hempty])

end Sys2Proof.Machine
end

section
/-! PROOFS. Control flow (43_control.md): the router's choice, read off the seven effects, and for JMP, JNZ, HALT and BLIND the
checks of each and its effect, with its frame. -/

namespace Sys2Proof.Machine

/-! ### The router -/

/-- R190: only a JNZ has a choice, which its effect and the router make by the same condition. -/
theorem effectOf_apply_pc (i : Instr) (s : State) : ((effectOf i s).apply s).pc = routedPc i s := by
  cases i with
  | jnz n =>
    simp only [effectOf, routedPc]
    split_ifs <;> rfl
  | _ => rfl

/-! ### The effects of control flow -/

/-- Only pc changed, to `p`. -/
def MovesPc (p : Word) (s t : State) : Prop :=
  t.pc = p ∧ SameSlots s t ∧ t.sp = s.sp ∧ SameControl s t ∧ SameOutput s t

/-- A jump to `n` that pops the top: the slot popped keeps its value (20_memory.md rule R71, 10_state.md rule R25). -/
def PopsAndJumps (n : Word) (s t : State) : Prop :=
  t.pc = n ∧ t.sp.toNat = s.sp.toNat - 1 ∧ SameSlots s t ∧ SameControl s t ∧ SameOutput s t

/-- A pop of the exit code `code` that ended the run in HALTED, with pc held and CAUSE kept (60_exceptions.md rule R240). -/
def HaltsWith (code : Word) (s t : State) : Prop :=
  t.status = .halted ∧ t.exitCode = code ∧ t.cause = s.cause ∧ t.pc = s.pc ∧ t.sp.toNat = s.sp.toNat - 1 ∧ SameSlots s t ∧
  t.prog = s.prog ∧ t.len = s.len ∧ SameOutput s t

theorem Effect.apply_jump_movesPc (n : Word) (s : State) : MovesPc n s ((Effect.jump n).apply s) :=
  ⟨rfl, State.jump_slot s n, rfl, ⟨rfl, rfl, rfl, rfl, rfl⟩, rfl, rfl⟩

theorem Effect.apply_advance_movesPc (s : State) : MovesPc (s.pc + 1#64) s (Effect.advance.apply s) :=
  ⟨rfl, State.advance_slot s, rfl, ⟨rfl, rfl, rfl, rfl, rfl⟩, rfl, rfl⟩

theorem Effect.apply_popJump_popsAndJumps (n : Word) {s : State} (hpos : 0 < s.sp.toNat) :
    PopsAndJumps n s ((Effect.popJump n).apply s) :=
  ⟨rfl, sp_sub_one (sp_pos.mpr hpos), fun _ => rfl, ⟨rfl, rfl, rfl, rfl, rfl⟩, rfl, rfl⟩

theorem Effect.apply_halt_haltsWith (code : Word) {s : State} (hpos : 0 < s.sp.toNat) :
    HaltsWith code s ((Effect.halt code).apply s) :=
  ⟨rfl, rfl, rfl, rfl, sp_sub_one (sp_pos.mpr hpos), fun _ => rfl, rfl, rfl, rfl, rfl⟩

/-- An instruction whose checks pass has every property that its effect gives. -/
theorem exec_retires_with {i : Instr} {s : State} {e : Effect} {P : State → Prop} (hnone : firstError i s = none)
    (heffect : effectOf i s = e) (hP : P (e.apply s)) : ∃ t, exec i s = .next t ∧ P t :=
  ⟨_, exec_retires hnone, heffect ▸ hP⟩

/-! ### The checks of JMP, JNZ, HALT and BLIND -/

/-- JMP checks its target only (R195). -/
theorem firstError_jmp (n : Word) (s : State) :
    firstError (.jmp n) s = if s.len.toNat ≤ n.toNat then some .illegalMemoryAccess else none := by
  simp [firstError, targetFails, needDepth, capacityFails, valueFails]

/-- JNZ checks its target before the stack (R200, R238). -/
theorem firstError_jnz (n : Word) (s : State) :
    firstError (.jnz n) s =
      if s.len.toNat ≤ n.toNat then some .illegalMemoryAccess else if s.sp.toNat = 0 then some .stackUnderflow else none := by
  simp [firstError, targetFails, needDepth, capacityFails, valueFails]

/-- HALT checks for an empty stack only (R205). -/
theorem firstError_halt (s : State) : firstError .halt s = if s.sp.toNat = 0 then some .stackUnderflow else none := by
  simp [firstError, targetFails, needDepth, capacityFails, valueFails]

/-- BLIND makes no check (R210). -/
theorem firstError_blind (s : State) : firstError .blind s = none :=
  (firstError_eq_none_iff .blind s).mpr ⟨rfl, Nat.zero_le _, rfl, rfl⟩

theorem firstError_jnz_eq_none {n : Word} {s : State} (hn : n.toNat < s.len.toNat) (hpos : 0 < s.sp.toNat) :
    firstError (.jnz n) s = none := by rw [firstError_jnz, if_neg hn.not_ge, if_neg hpos.ne']

/-! ### JNZ taken and not taken -/

theorem effectOf_jnz_taken {s : State} (n : Word) (htop : s.slot (s.sp.toNat - 1) = 1#64) :
    effectOf (.jnz n) s = .popJump n := if_pos htop

theorem effectOf_jnz_notTaken {s : State} (n : Word) (htop : s.slot (s.sp.toNat - 1) ≠ 1#64) :
    effectOf (.jnz n) s = .advance := if_neg htop

/-! ### The obligations -/

/-- Settles O41: the target check, the depth check and the top element leave one effect each. -/
theorem jnzJumpsAndPopsOnOne : Obligations.JnzJumpsAndPopsOnOne := by
  refine fun n s => ⟨rfl, fun hn hpos htop => ?taken, fun hn hpos htop => ?notTaken, fun hn => ?outside, fun hn hempty => ?empty⟩
  case taken =>
    exact exec_retires_with (firstError_jnz_eq_none hn hpos) (effectOf_jnz_taken n htop)
      (Effect.apply_popJump_popsAndJumps n hpos)
  case notTaken =>
    obtain ⟨t, hexec, hpc, hslots, hsp, hframe⟩ := exec_retires_with (firstError_jnz_eq_none hn hpos)
      (effectOf_jnz_notTaken n htop) (Effect.apply_advance_movesPc s)
    exact ⟨t, hexec, hpc, hsp, hslots, hframe⟩
  case outside => exact exec_faults (by rw [firstError_jnz, if_pos hn])
  case empty => exact exec_faults (by rw [firstError_jnz, if_neg hn.not_ge, if_pos hempty])

/-- Settles O42: the depth check alone decides between the end of the run in HALTED and the fault. -/
theorem haltPopsExitCode : Obligations.HaltPopsExitCode := by
  refine fun s => ⟨rfl, fun hpos => ?_, fun hempty => ?_⟩
  · have hnone : firstError .halt s = none := by rw [firstError_halt, if_neg hpos.ne']
    exact exec_retires_with hnone rfl (Effect.apply_halt_haltsWith _ hpos)
  · exact exec_faults (by rw [firstError_halt, if_pos hempty])

/-- Settles O45: an effect's pc is the router's choice, and a taken error leaves pc as it was. -/
theorem routerPicksNextPc : Obligations.RouterPicksNextPc := by
  intro i s
  obtain ⟨hnone, -, hnext⟩ | ⟨c, hsome, hfault⟩ := exec_cases i s
  · exact ⟨_, hnext, fun _ => effectOf_apply_pc i s, fun hfails => absurd hnone hfails⟩
  · exact ⟨_, hfault, fun hnone => absurd (hnone.symm.trans hsome) nofun, fun _ => rfl⟩

/-- Settles O40: the target check alone decides between the jump and the fault. -/
theorem jmpSetsPcInsideProgram : Obligations.JmpSetsPcInsideProgram := by
  refine fun n s => ⟨rfl, fun hn => ?_, fun hn => ?_⟩
  · have hnone : firstError (.jmp n) s = none := by rw [firstError_jmp, if_neg hn.not_ge]
    exact exec_retires_with hnone rfl (Effect.apply_jump_movesPc n s)
  · exact exec_faults (by rw [firstError_jmp, if_pos hn])

/-- Settles O43. -/
theorem blindOnlyAdvancesPc : Obligations.BlindOnlyAdvancesPc :=
  fun s => ⟨rfl, exec_retires_with (firstError_blind s) rfl (Effect.apply_advance_movesPc s)⟩

end Sys2Proof.Machine
end

section
/-! PROOFS. The comparison instructions EQ and NEQ (44_compare.md): the results of the two as choices on the equality of the
operands. The checks and the frame are those of every binary operation that checks the depth only. -/

namespace Sys2Proof.Machine

/-! ### The results as choices -/

/-- R220: 1 exactly when all 64 bits are equal. -/
theorem bool01_beq (a b : Word) : bool01 (a == b) = if a = b then 1#64 else 0#64 := by
  simp only [bool01, beq_iff_eq]

/-- R225: 0 exactly when all 64 bits are equal. -/
theorem bool01_bne (a b : Word) : bool01 (a != b) = if a = b then 0#64 else 1#64 := by
  simp only [bool01, bne_iff_ne, ite_not]

theorem effectOf_eq (s : State) :
    effectOf .eq s =
      .replaceTop2 (if s.slot (s.sp.toNat - 2) = s.slot (s.sp.toNat - 1) then 1#64 else 0#64) :=
  congrArg Effect.replaceTop2 (bool01_beq _ _)

theorem effectOf_neq (s : State) :
    effectOf .neq s =
      .replaceTop2 (if s.slot (s.sp.toNat - 2) = s.slot (s.sp.toNat - 1) then 0#64 else 1#64) :=
  congrArg Effect.replaceTop2 (bool01_bne _ _)

/-- A comparison with the result `r`: the depth check alone decides between it and the fault. -/
theorem exec_depthCheckedBinary_retires_or_faults {i : Instr} {s : State} {r : Word} (hi : i ∈ depthCheckedBinary)
    (hresult : effectOf i s = .replaceTop2 r) :
    (2 ≤ s.sp.toNat → ∃ t, exec i s = .next t ∧ ReplacesTopTwo r s t) ∧
    (s.sp.toNat < 2 → exec i s = .next (faultedAs .stackUnderflow s)) :=
  ⟨fun hsp => exec_depthCheckedBinary_retires hi hsp hresult, exec_depthCheckedBinary_faults hi⟩

/-! ### The obligations -/

/-- Settles O36. -/
theorem eqWritesOneIfEqual : Obligations.EqWritesOneIfEqual :=
  fun s => ⟨rfl, exec_depthCheckedBinary_retires_or_faults (by decide) (effectOf_eq s)⟩

/-- Settles O37. -/
theorem neqWritesOneIfDifferent : Obligations.NeqWritesOneIfDifferent :=
  fun s => ⟨rfl, exec_depthCheckedBinary_retires_or_faults (by decide) (effectOf_neq s)⟩

end Sys2Proof.Machine
end

section
/-! PROOFS. Errors and termination (60_exceptions.md): a load action that changes STATUS is a load error, an instruction keeps the
termination registers unless it is a HALT or takes an error, hence the ways a run ends and the code of each end state. -/

namespace Sys2Proof.Machine

/-! ### Load errors -/

/-- The CAUSE of a load error (R237). -/
def loadCauses : List Cause := [.illegalOpcode, .programFull, .malformedImage]

section

variable {depth : Word} {s : State}

theorem appendBatch_eq_loadFault {is : List Instr} (h : (s.appendBatch depth is).status ≠ s.status) :
    ∃ c ∈ loadCauses, s.appendBatch depth is = s.loadFault c :=
  ⟨.programFull, by decide, appendBatch_status h⟩

theorem load_eq_loadFault {ws : List InsnWord} (h : (s.load depth ws).status ≠ s.status) :
    ∃ c ∈ loadCauses, s.load depth ws = s.loadFault c := by
  obtain ⟨-, heq⟩ | ⟨-, -, heq⟩ | ⟨-, is, -, heq⟩ := load_cases depth ws s <;> rw [heq] at h ⊢
  · exact absurd rfl h
  · exact ⟨.illegalOpcode, by decide, rfl⟩
  · exact appendBatch_eq_loadFault h

theorem loadDirect_eq_loadFault {is : List Instr} (h : (s.loadDirect depth is).status ≠ s.status) :
    ∃ c ∈ loadCauses, s.loadDirect depth is = s.loadFault c := by
  obtain ⟨-, heq⟩ | ⟨-, heq⟩ := loadDirect_cases depth is s <;> rw [heq] at h ⊢
  · exact absurd rfl h
  · exact appendBatch_eq_loadFault h

theorem loadImage_eq_loadFault {text : List Byte} (h : (s.loadImage depth text).status ≠ s.status) :
    ∃ c ∈ loadCauses, s.loadImage depth text = s.loadFault c := by
  obtain ⟨-, heq⟩ | ⟨-, -, heq⟩ | ⟨-, ws, -, heq⟩ := loadImage_cases depth text s <;> rw [heq] at h ⊢
  · exact absurd rfl h
  · exact ⟨.malformedImage, by decide, rfl⟩
  · exact load_eq_loadFault h

/-- A run that is accepted ends in RUNNING, and one that is refused changes nothing. -/
theorem run_status_ne_loadFaulted (h : s.status ≠ .loadFaulted) : s.run.status ≠ .loadFaulted := by
  obtain ⟨-, heq⟩ | ⟨-, -, heq⟩ := run_cases s <;> rw [heq]
  · exact nofun
  · exact h

/-- R237: a host action that enters LOAD_FAULTED takes a load error, and does nothing else. -/
theorem hostAct_eq_loadFault {a : HostAction} (hbefore : s.status ≠ .loadFaulted)
    (hafter : (hostAct depth a s).status = .loadFaulted) : ∃ c ∈ loadCauses, hostAct depth a s = s.loadFault c := by
  have hchanged : (hostAct depth a s).status ≠ s.status := fun hkept => hbefore (hkept.symm.trans hafter)
  cases a with
  | reset => exact absurd hafter nofun
  | load ws => exact load_eq_loadFault hchanged
  | loadDirect is => exact loadDirect_eq_loadFault hchanged
  | loadImage text => exact loadImage_eq_loadFault hchanged
  | run => exact absurd hafter (run_status_ne_loadFaulted hbefore)
  | accept => exact absurd rfl hchanged

end

/-! ### The termination registers under an instruction -/

/-- Of the seven effects only HALT's writes STATUS, CAUSE or EXIT_CODE. -/
theorem Effect.apply_sameControl {e : Effect} (hhalt : ∀ code, e ≠ .halt code) (s : State) : SameControl s (e.apply s) := by
  cases e with
  | halt code => exact absurd rfl (hhalt code)
  | _ => exact ⟨rfl, rfl, rfl, rfl, rfl⟩

theorem effectOf_ne_halt {i : Instr} (hi : i ≠ .halt) (s : State) (code : Word) : effectOf i s ≠ .halt code := by
  cases i with
  | halt => exact absurd rfl hi
  | jnz n =>
    simp only [effectOf]
    split_ifs <;> exact nofun
  | _ => exact nofun

/-- R240: an instruction whose checks pass ends the run if it is a HALT, and else keeps the termination registers. -/
theorem exec_retires_control {i : Instr} {s : State} (hnone : firstError i s = none) :
    ∃ t, exec i s = .next t ∧
      ((i ≠ .halt ∧ SameControl s t) ∨ (i = .halt ∧ HaltsWith (s.slot (s.sp.toNat - 1)) s t)) := by
  refine ⟨_, exec_retires hnone, ?_⟩
  by_cases hi : i = .halt
  · subst hi
    have hpos : 0 < s.sp.toNat := effectOf_fits hnone
    exact .inr ⟨rfl, Effect.apply_halt_haltsWith _ hpos⟩
  · exact .inl ⟨hi, Effect.apply_sameControl (effectOf_ne_halt hi s) s⟩

/-! ### The end of a run -/

/-- The four ways in which the core's step from RUNNING leaves the termination registers, with the pc of each (R240, R260). -/
inductive RunOutcome (s t : State) : Prop where
  /-- The run goes on. -/
  | goesOn (status : t.status = s.status) (cause : t.cause = s.cause) (exitCode : t.exitCode = s.exitCode)
  /-- The normal end. -/
  | ends (atEnd : s.pc = s.len) (result : t = s.endRun)
  /-- The HALT at pc retired. -/
  | halts (fetched : s.prog[s.pc.toNat]? = some .halt) (result : HaltsWith (s.slot (s.sp.toNat - 1)) s t)
  /-- The instruction at pc took the error with CAUSE `c`. -/
  | faults (i : Instr) (c : Cause) (fetched : s.prog[s.pc.toNat]? = some i) (failed : firstError i s = some c)
    (result : t = faultedAs c s)

theorem exec_runOutcome {i : Instr} {s t : State} (hi : s.prog[s.pc.toNat]? = some i) (h : exec i s = .next t) :
    RunOutcome s t := by
  cases hfirst : firstError i s with
  | none =>
    obtain ⟨u, hnext, hcontrol⟩ := exec_retires_control hfirst
    cases hnext.symm.trans h
    obtain ⟨-, -, -, hstatus, hcause, hcode⟩ | ⟨rfl, hhalts⟩ := hcontrol
    · exact .goesOn hstatus hcause hcode
    · exact .halts hi hhalts
  | some c =>
    cases (exec_faults hfirst).symm.trans h
    exact .faults i c hi hfirst rfl

theorem runOne_runOutcome {s t : State} (h : runOne s = .next t) : RunOutcome s t := by
  obtain ⟨hpc, heq⟩ | ⟨-, -, heq⟩ | ⟨-, -, i, hfetch, heq⟩ | ⟨-, -, -, heq⟩ := runOne_cases s <;> rw [heq] at h
  · cases h
    exact .ends hpc rfl
  · cases h
  · exact exec_runOutcome (fetch_some hfetch).2 h
  · cases h

theorem coreStep_runOutcome {s t : State} (hrun : s.status = .running) (h : coreStep s = .next t) : RunOutcome s t := by
  by_cases hfree : s.offered = none
  · exact runOne_runOutcome ((coreStep_running hrun hfree).symm.trans h)
  · cases (coreStep_waiting hfree).symm.trans h
    exact .goesOn rfl rfl rfl

/-! ### The host's exit status -/

/-- R245: only a HALT code is narrowed. -/
theorem processExit_eq_endCode {s : State} (h : s.status ≠ .halted) : s.processExit = s.endCode.map BitVec.toNat := by
  unfold State.processExit State.endCode
  cases hs : s.status with
  | halted => exact absurd hs h
  | _ => rfl

theorem endCode_loadFaulted {s : State} (h : s.status = .loadFaulted) : s.endCode = some 101#64 := by
  simp only [State.endCode, h, Config.exitLoad]

theorem endCode_faulted {s : State} (h : s.status = .faulted) : s.endCode = some 202#64 := by
  simp only [State.endCode, h, Config.exitRuntime]

theorem endCode_halted {s : State} (h : s.status = .halted) : s.endCode = some s.exitCode := by
  simp only [State.endCode, h]

theorem endCode_ended {s : State} (h : s.status = .ended) : s.endCode = some 0#64 := by
  simp only [State.endCode, h, Config.exitEnd]

theorem processExit_of_endCode {s : State} {code : Word} (h : s.status ≠ .halted) (hcode : s.endCode = some code) :
    s.processExit = some code.toNat := by
  rw [processExit_eq_endCode h, hcode, Option.map_some]

/-! ### The obligations -/

/-- Settles O21: the action is the taking of a load error, which writes the three registers only. -/
theorem loadErrorKeepsTheRest : Obligations.LoadErrorKeepsTheRest := by
  rintro depth a s t rfl hbefore hafter
  obtain ⟨c, hc, heq⟩ := hostAct_eq_loadFault hbefore hafter
  rw [heq]
  exact ⟨rfl, hc, rfl, rfl, State.loadFault_slot s c, rfl, rfl, rfl⟩

/-- Settles O44: an instruction takes its first error, or retires, and then only a HALT writes STATUS. -/
theorem firstFailingCheckIsReported : Obligations.FirstFailingCheckIsReported := by
  refine fun i s => ⟨fun c => exec_faults, fun hnone => ?_⟩
  obtain ⟨t, hnext, ⟨hi, -, -, hstatus, hcause, -⟩ | ⟨hi, hstatus, -, hcause, -⟩⟩ := exec_retires_control hnone
  · exact ⟨t, hnext, hcause, by rw [if_neg hi, hstatus]⟩
  · exact ⟨t, hnext, hcause, by rw [if_pos hi, hstatus]⟩

/-- Settles O49: each way the core's step can go has its pc, exit code and CAUSE. -/
theorem runEndsInThreeWays : Obligations.RunEndsInThreeWays := by
  intro s t hrun hstep
  cases coreStep_runOutcome hrun hstep with
  | goesOn hstatus hcause hcode => exact .inl ⟨hstatus.trans hrun, hcause, hcode⟩
  | ends hpc hend =>
    subst hend
    exact .inr (.inl ⟨rfl, hpc, hpc, rfl, rfl⟩)
  | halts hfetched hhalts =>
    obtain ⟨hstatus, hcode, hcause, hpc, -⟩ := hhalts
    exact .inr (.inr (.inl ⟨hstatus, hfetched, hpc, hcode, hcause⟩))
  | faults i c _ hfailed hfault =>
    subst hfault
    have hc : c ∈ [Cause.stackOverflow, .stackUnderflow, .divideByZero, .illegalMemoryAccess] := by
      simpa using firstError_cause hfailed
    exact .inr (.inr (.inr ⟨rfl, rfl, rfl, hc⟩))

/-- Settles O57: the process exit status is the end code wherever that is not a HALT's. -/
theorem hostExitCodeByStatus : Obligations.HostExitCodeByStatus := by
  refine fun s => ⟨fun h => ?_, fun h => ?_, endCode_halted, fun h => ?_⟩
  · exact ⟨endCode_loadFaulted h, processExit_of_endCode (by simp [h]) (endCode_loadFaulted h)⟩
  · exact ⟨endCode_faulted h, processExit_of_endCode (by simp [h]) (endCode_faulted h)⟩
  · exact ⟨endCode_ended h, processExit_of_endCode (by simp [h]) (endCode_ended h)⟩

end Sys2Proof.Machine
end
